-- ==== Sys2Proof/Word.lean ====
section
/-! DEFINITION. The words of the block: unsigned values of fixed width (00_scope R10) and byte strings (R11).
All arithmetic on them is that of core Lean's BitVec; nothing here can be wrong about the hardware. -/
namespace Sys2Proof

/-- `u8` of 00_scope R10. -/
abbrev Byte := BitVec 8

/-- `u16` of 00_scope R10. -/
abbrev U16 := BitVec 16

/-- `u32` of 00_scope R10. -/
abbrev U32 := BitVec 32

/-- `Bytes` of 00_scope R11: a finite sequence of u8. `++` is concatenation, `List.length` is `|b|`. -/
abbrev Bytes := List Byte

end Sys2Proof
end

