-- ==== Sys2Proof/Config.lean ====
section
/-! DEFINITION. What an implementation fixes: the parameters of 00_scope R8, the fixed sizes of R9, and the one free
value of the model. -/
namespace Sys2Proof

/-- The implementation parameters of 00_scope R8. The spec gives them no values ("A model takes each as an argument"),
so a machine state carries its block's parameters, no step writes them, and a statement about every state is a
statement about every choice of parameters (log 5). -/
structure Params where
  /-- `FRAG_SIZE`: maximum payload bytes per outbound frame. -/
  fragSize : Nat
  /-- `STALE_MS`: the staleness window for reassembly groups, in milliseconds. -/
  staleMs : U32
  /-- `N_SUB`: subscriber table entries. -/
  nSub : Nat
  /-- `N_PUB`: publisher table entries. -/
  nPub : Nat
  /-- `N_PEND`: pending-publisher table entries. -/
  nPend : Nat
  /-- `N_GROUPS`: reassembly group slots. -/
  nGroups : Nat
  /-- `GROUP_MAX`: maximum members held by one group. -/
  groupMax : Nat
  /-- `IQ_CAP`: inbound packet queue capacity, in packets. -/
  iqCap : Nat
  /-- `OB_CAP`: outbound byte buffer capacity, in bytes. -/
  obCap : Nat
  deriving DecidableEq, Repr

/-- The legal ranges of 00_scope R8 (STALE_MS is bounded by its width). -/
abbrev Params.Legal (p : Params) : Prop :=
  1 ≤ p.fragSize ∧ p.fragSize ≤ 65535 ∧ 1 ≤ p.nSub ∧ 1 ≤ p.nPub ∧ 1 ≤ p.nPend ∧ 1 ≤ p.nGroups ∧
    1 ≤ p.groupMax ∧ 1 ≤ p.iqCap ∧ p.obCap ≤ 256 * p.fragSize

/-- The parameters the block of `State.reset` has: those 95_test_vectors takes "unless a vector says otherwise".
DESIGN CHOICE, log 5: unsafe for a claim that rests on one of these numbers; no statement does. -/
def Config.params : Params :=
  { fragSize := 500, staleMs := 1000, nSub := 4, nPub := 4, nPend := 4, nGroups := 4, groupMax := 256, iqCap := 8,
    obCap := 128000 }

/-- `HDR_LEN` of 00_scope R9. -/
abbrev Config.hdrLen : Nat := 7

/-- A free value: what the u32 count field of a GET_PACKETS response holds when the number to be written does not fit
32 bits. The spec states the field (30_encoding R91, R97) and no value for such a number. DESIGN CHOICE, log 11. -/
opaque Config.oversizeCount : Nat → U32

end Sys2Proof
end

