-- ==== Sys2Proof/Syntax.lean ====
section
/-! DEFINITION. The records and enumerations of 00_scope R13 and R14, the instructions (one constructor per row of
spec/opcode_table.json), and the pseudo-commands of 30_encoding R95. -/
namespace Sys2Proof

/-- Node `type` (00_scope R14). -/
inductive NodeType where
  | rover
  | drone
  | remote
  | gs
  deriving DecidableEq, Repr

/-- The header's `req` (00_scope R14). -/
inductive Req where
  | push
  | connect
  | ack
  | disconnect
  deriving DecidableEq, Repr

/-- A peer address (00_scope R9, R13): IPv4 address and UDP port. Equality of the two fields is AddrEq
(42_registry R180). -/
structure Addr where
  ip : BitVec 32
  port : U16
  deriving DecidableEq, Repr

/-- The frame header (00_scope R13), field by field. -/
structure Header where
  type : NodeType
  req : Req
  moreFrag : Bool
  pad : BitVec 3
  payloadLength : U16
  fragIndex : Byte
  fragRef : Byte
  protocolVersion : U16
  deriving DecidableEq, Repr

/-- The fields a frame kind of opcode_table.json leaves open: all of the header but `req` and `pad`. -/
structure FrameFields where
  type : NodeType
  moreFrag : Bool
  payloadLength : U16
  fragIndex : Byte
  fragRef : Byte
  protocolVersion : U16
  deriving DecidableEq, Repr

/-- The operand type `Hdr7` (30_encoding R87): the seven bytes of a wire header, any values. -/
structure Hdr7 where
  b0 : Byte
  b1 : Byte
  b2 : Byte
  b3 : Byte
  b4 : Byte
  b5 : Byte
  b6 : Byte
  deriving DecidableEq, Repr

/-- The instructions: the sixteen host commands (30_encoding R89, R90) and the four frame kinds (R96), one constructor
per row of spec/opcode_table.json. A command's operands have the widths of R90, so an out-of-range operand is a term
here and is refused with BAD_ARGUMENT by its meaning (43_host_commands R200). A frame's operands are the sender the
driver port reports with the datagram (60_exceptions R276), the header fields its row leaves open, and the payload. -/
inductive Instr where
  | init (version port : U16) (nodeType : Byte)
  | reset (version port : U16) (nodeType : Byte)
  | shutdown
  | recv
  | getPackets
  | push (data : Bytes)
  | flush
  | send (data : Bytes)
  | sendTo (dest : Addr) (data : Bytes)
  | sendCtrl (req : Byte) (dest : Addr)
  | isInitialized
  | needsReset
  | hasSubscribers
  | regLookup (addr : Addr)
  | hdrEncode (type req moreFrag : Byte) (payloadLength : U16) (fragIndex fragRef : Byte) (protocolVersion : U16)
  | hdrDecode (hdr : Hdr7)
  | pushFrame (sender : Addr) (fields : FrameFields) (payload : Bytes)
  | connectFrame (sender : Addr) (fields : FrameFields) (payload : Bytes)
  | ackFrame (sender : Addr) (fields : FrameFields) (payload : Bytes)
  | disconnectFrame (sender : Addr) (fields : FrameFields) (payload : Bytes)
  deriving DecidableEq, Repr

/-- Which of the two ports an instruction comes from: `none` for a host command, the sender for a frame. -/
def Instr.sender? : Instr → Option Addr
  | .init _ _ _ => none
  | .reset _ _ _ => none
  | .shutdown => none
  | .recv => none
  | .getPackets => none
  | .push _ => none
  | .flush => none
  | .send _ => none
  | .sendTo _ _ => none
  | .sendCtrl _ _ => none
  | .isInitialized => none
  | .needsReset => none
  | .hasSubscribers => none
  | .regLookup _ => none
  | .hdrEncode _ _ _ _ _ _ _ => none
  | .hdrDecode _ => none
  | .pushFrame a _ _ => some a
  | .connectFrame a _ _ => some a
  | .ackFrame a _ _ => some a
  | .disconnectFrame a _ _ => some a

/-- The pseudo-commands of 30_encoding R95. They have no opcodes of their own. -/
inductive Pseudo where
  | connectTo (a : Addr)
  | ackTo (a : Addr)
  | disconnectFrom (a : Addr)
  deriving DecidableEq, Repr

end Sys2Proof
end

