-- ==== Sys2Proof/Machine/Codec.lean ====
section
/-! DEFINITION. Byte order and bit fields (20_memory, 30_encoding) and the pure functions of the header codec
(40_header_codec R120 to R125). -/
namespace Sys2Proof

/-! ### Byte order -/

/-- Byte `i` of a value, byte 0 the least significant. -/
def byteOf {w : Nat} (v : BitVec w) (i : Nat) : Byte := v.extractLsb' (8 * i) 8

/-- `le16` (00_scope R11). -/
def le16 (v : U16) : Bytes := [byteOf v 0, byteOf v 1]

/-- `rd16` (00_scope R11): the first byte is the less significant. -/
def rd16 (b0 b1 : Byte) : U16 := b1 ++ b0

/-- `le32` (00_scope R11). -/
def le32 (v : U32) : Bytes := [byteOf v 0, byteOf v 1, byteOf v 2, byteOf v 3]

/-- The u32 that `le32` wrote: the first byte is the least significant. -/
def rd32 (b0 b1 b2 b3 : Byte) : U32 := b3 ++ b2 ++ b1 ++ b0

/-- An Addr in a message (20_memory R63): the IPv4 octets in dotted-quad order, then `le16 port`. -/
def addrBytes (a : Addr) : Bytes := [byteOf a.ip 3, byteOf a.ip 2, byteOf a.ip 1, byteOf a.ip 0] ++ le16 a.port

/-- The Addr of six message bytes (20_memory R63). -/
def rdAddr (o0 o1 o2 o3 p0 p1 : Byte) : Addr := { ip := rd32 o3 o2 o1 o0, port := rd16 p0 p1 }

/-- A one-bit value widened to a byte (`zext_8` of 00_scope R10). -/
def flagByte (b : Bool) : Byte := if b then 1 else 0

/-! ### Enumerations -/

/-- The number of a node type (00_scope R14). -/
def NodeType.bits : NodeType → BitVec 2
  | .rover => 0
  | .drone => 1
  | .remote => 2
  | .gs => 3

/-- The node type of a two-bit number (00_scope R14; all four are defined, 30_encoding R84). -/
def NodeType.ofBits (b : BitVec 2) : NodeType :=
  if b = 0 then .rover else if b = 1 then .drone else if b = 2 then .remote else .gs

/-- The number of a `req` (00_scope R14). -/
def Req.bits : Req → BitVec 2
  | .push => 0
  | .connect => 1
  | .ack => 2
  | .disconnect => 3

/-- The `req` of a two-bit number (00_scope R14; all four are defined, 30_encoding R84). -/
def Req.ofBits (b : BitVec 2) : Req :=
  if b = 0 then .push else if b = 1 then .connect else if b = 2 then .ack else .disconnect

/-! ### The header codec -/

/-- The padding signature 0b101 (30_encoding R81, R83). -/
def padSignature : BitVec 3 := 0b101

/-- Header byte 0 (30_encoding R82): `0xA0 | (more_frag << 4) | (req << 2) | type`. -/
def headerByte0 (h : Header) : Byte :=
  0xA0 ||| (flagByte h.moreFrag <<< 4) ||| (h.req.bits.setWidth 8 <<< 2) ||| h.type.bits.setWidth 8

/-- `Encode` (40_header_codec R120). `h.pad` is ignored: 0b101 is written. -/
def encodeHeader (h : Header) : Bytes :=
  [headerByte0 h, byteOf h.payloadLength 0, byteOf h.payloadLength 1, h.fragIndex, h.fragRef,
    byteOf h.protocolVersion 0, byteOf h.protocolVersion 1]

/-- `Decode` (40_header_codec R121) of seven bytes; every seven bytes decode. -/
def decodeHeader (b : Hdr7) : Header :=
  { type := .ofBits (b.b0.extractLsb' 0 2)
    req := .ofBits (b.b0.extractLsb' 2 2)
    moreFrag := b.b0.getLsbD 4
    pad := b.b0.extractLsb' 5 3
    payloadLength := rd16 b.b1 b.b2
    fragIndex := b.b3
    fragRef := b.b4
    protocolVersion := rd16 b.b5 b.b6 }

/-- The bytes of a `Hdr7` operand in message order (30_encoding R87). -/
def hdr7Bytes (b : Hdr7) : Bytes := [b.b0, b.b1, b.b2, b.b3, b.b4, b.b5, b.b6]

/-- `Validity` (40_header_codec R122). -/
def validity (h : Header) : Bool :=
  (h.req != .push || h.payloadLength != 0) && (!h.moreFrag || h.fragRef != 0) && h.pad == padSignature

/-- `LastFrag` (40_header_codec R123). It does not ask for validity. -/
def lastFrag (h : Header) : Bool := !h.moreFrag && h.fragRef != 0

/-- The first seven bytes of a datagram and the bytes after them; `none` for a runt (40_header_codec R125). -/
def splitHeader : Bytes → Option (Hdr7 × Bytes)
  | b0 :: b1 :: b2 :: b3 :: b4 :: b5 :: b6 :: rest => some (⟨b0, b1, b2, b3, b4, b5, b6⟩, rest)
  | _ => none

/-- `ParseDatagram` (40_header_codec R125): `none` for a runt, an invalid header or a truncated payload; bytes past
the payload are ignored. -/
def parseDatagram (d : Bytes) : Option (Header × Bytes) :=
  match splitHeader d with
  | none => none
  | some (b, rest) =>
    if !validity (decodeHeader b) then none
    else if rest.length < (decodeHeader b).payloadLength.toNat then none
    else some (decodeHeader b, rest.take (decodeHeader b).payloadLength.toNat)

/-- The header of a frame of kind `req` with the open fields `f`; the padding is the signature, or the bytes would be
of no kind (30_encoding R96). -/
def FrameFields.header (f : FrameFields) (req : Req) : Header :=
  { type := f.type, req := req, moreFrag := f.moreFrag, pad := padSignature, payloadLength := f.payloadLength,
    fragIndex := f.fragIndex, fragRef := f.fragRef, protocolVersion := f.protocolVersion }

/-- The open fields of a header. -/
def Header.fields (h : Header) : FrameFields :=
  { type := h.type, moreFrag := h.moreFrag, payloadLength := h.payloadLength, fragIndex := h.fragIndex,
    fragRef := h.fragRef, protocolVersion := h.protocolVersion }

/-- A frame's bytes: `header ++ payload` (30_encoding R80). -/
def frameBytes (req : Req) (f : FrameFields) (payload : Bytes) : Bytes := encodeHeader (f.header req) ++ payload

end Sys2Proof
end

