-- ==== Sys2Proof/WellFormed.lean ====
section
/-! DEFINITION. Which instructions have an encoding: the two places where an operand can be too long for the field that
states its length. -/
namespace Sys2Proof

/-- A `Bytes` operand states its length in 32 bits: "n = |data| < 2^32" (30_encoding R87). -/
def bytesFit (data : Bytes) : Bool := decide (data.length < 2 ^ 32)

/-- A frame carries as many payload bytes as its header's `payload_length` says (30_encoding R80, R85). -/
def payloadFits (f : FrameFields) (payload : Bytes) : Bool := decide (payload.length = f.payloadLength.toNat)

/-- The instruction has an encoding. -/
def Instr.wellFormed : Instr → Bool
  | .init _ _ _ => true
  | .reset _ _ _ => true
  | .shutdown => true
  | .recv => true
  | .getPackets => true
  | .push data => bytesFit data
  | .flush => true
  | .send data => bytesFit data
  | .sendTo _ data => bytesFit data
  | .sendCtrl _ _ => true
  | .isInitialized => true
  | .needsReset => true
  | .hasSubscribers => true
  | .regLookup _ => true
  | .hdrEncode _ _ _ _ _ _ _ => true
  | .hdrDecode _ => true
  | .pushFrame _ f payload => payloadFits f payload
  | .connectFrame _ f payload => payloadFits f payload
  | .ackFrame _ f payload => payloadFits f payload
  | .disconnectFrame _ f payload => payloadFits f payload

end Sys2Proof
end

