-- ==== Sys2Proof/Decode.lean ====
section
/-! DEFINITION. The decoders of the two encodings of 30_encoding (host command messages, received datagrams), total on
any bytes and refusing by name; the encoder; and the layout the host's table words are read in. -/
namespace Sys2Proof

/-! ### Host command messages -/

/-- Why a host message is no command: an opcode that R89 does not list or an empty message (30_encoding R92), or a
length that is not the opcode's (R93). -/
inductive MsgReject where
  | badOpcode
  | badLength
  deriving DecidableEq, Repr

/-- A `Bytes` operand that ends its message (30_encoding R87): the four length bytes and exactly that many bytes. -/
def bytesOperand : Bytes → Option Bytes
  | n0 :: n1 :: n2 :: n3 :: data => if data.length = (rd32 n0 n1 n2 n3).toNat then some data else none
  | _ => none

/-- A message with no operands (30_encoding R90). -/
def noOperands (i : Instr) : Bytes → Except MsgReject Instr
  | [] => .ok i
  | _ => .error .badLength

/-- `version:u16 @1, port:u16 @3, node_type:u8 @5` (30_encoding R90, INIT and RESET). -/
def lifecycleOperands (mk : U16 → U16 → Byte → Instr) : Bytes → Except MsgReject Instr
  | [v0, v1, p0, p1, ty] => .ok (mk (rd16 v0 v1) (rd16 p0 p1) ty)
  | _ => .error .badLength

/-- `data:Bytes @1` (30_encoding R90, PUSH and SEND). -/
def dataOperand (mk : Bytes → Instr) (operands : Bytes) : Except MsgReject Instr :=
  match bytesOperand operands with
  | some data => .ok (mk data)
  | none => .error .badLength

/-- `dest:Addr @1, data:Bytes @7` (30_encoding R90, SEND_TO). -/
def sendToOperands : Bytes → Except MsgReject Instr
  | o0 :: o1 :: o2 :: o3 :: p0 :: p1 :: operands => dataOperand (.sendTo (rdAddr o0 o1 o2 o3 p0 p1)) operands
  | _ => .error .badLength

/-- `req:u8 @1, dest:Addr @2` (30_encoding R90, SEND_CTRL). -/
def sendCtrlOperands : Bytes → Except MsgReject Instr
  | [r, o0, o1, o2, o3, p0, p1] => .ok (.sendCtrl r (rdAddr o0 o1 o2 o3 p0 p1))
  | _ => .error .badLength

/-- `addr:Addr @1` (30_encoding R90, REG_LOOKUP). -/
def regLookupOperands : Bytes → Except MsgReject Instr
  | [o0, o1, o2, o3, p0, p1] => .ok (.regLookup (rdAddr o0 o1 o2 o3 p0 p1))
  | _ => .error .badLength

/-- The operands of HDR_ENCODE (30_encoding R90). -/
def hdrEncodeOperands : Bytes → Except MsgReject Instr
  | [t, r, m, l0, l1, i, f, v0, v1] => .ok (.hdrEncode t r m (rd16 l0 l1) i f (rd16 v0 v1))
  | _ => .error .badLength

/-- `hdr:Hdr7 @1` (30_encoding R90, HDR_DECODE). -/
def hdrDecodeOperands : Bytes → Except MsgReject Instr
  | [b0, b1, b2, b3, b4, b5, b6] => .ok (.hdrDecode ⟨b0, b1, b2, b3, b4, b5, b6⟩)
  | _ => .error .badLength

/-- The command a host message is (30_encoding R86, R89, R90), or why it is none (R92, R93; the opcode is looked at
first). -/
def decodeCommand : Bytes → Except MsgReject Instr
  | [] => .error .badOpcode
  | op :: operands =>
    match op.toNat with
    | 0x01 => lifecycleOperands .init operands
    | 0x02 => lifecycleOperands .reset operands
    | 0x03 => noOperands .shutdown operands
    | 0x04 => noOperands .recv operands
    | 0x05 => noOperands .getPackets operands
    | 0x06 => dataOperand .push operands
    | 0x07 => noOperands .flush operands
    | 0x08 => dataOperand .send operands
    | 0x09 => sendToOperands operands
    | 0x0A => sendCtrlOperands operands
    | 0x10 => noOperands .isInitialized operands
    | 0x11 => noOperands .needsReset operands
    | 0x12 => noOperands .hasSubscribers operands
    | 0x13 => regLookupOperands operands
    | 0x20 => hdrEncodeOperands operands
    | 0x21 => hdrDecodeOperands operands
    | _ => .error .badOpcode

/-! ### Received datagrams -/

/-- Why a datagram is no frame: fewer than 7 bytes, a byte 0 that matches no kind (30_encoding R96: the padding is
wrong), or fewer payload bytes than `payload_length` says (40_header_codec R125). Whether a frame's header is valid is
asked after its kind is known (R96), by the frame's meaning. -/
inductive FrameReject where
  | runt
  | badPadding
  | truncated
  deriving DecidableEq, Repr

/-- The kinds of 30_encoding R96, by mask and match on byte 0. -/
def frameKind (b0 : Byte) : Option Req :=
  if b0 &&& 0xEC = 0xA0 then some .push
  else if b0 &&& 0xEC = 0xA4 then some .connect
  else if b0 &&& 0xEC = 0xA8 then some .ack
  else if b0 &&& 0xEC = 0xAC then some .disconnect
  else none

/-- The frame instruction of a kind. -/
def frameInstr : Req → Addr → FrameFields → Bytes → Instr
  | .push => .pushFrame
  | .connect => .connectFrame
  | .ack => .ackFrame
  | .disconnect => .disconnectFrame

/-- The frame a received datagram is (30_encoding R80, R85, R96), sent by `sender`; bytes past the payload are ignored
(40_header_codec R125). -/
def decodeDatagram (sender : Addr) (d : Bytes) : Except FrameReject Instr :=
  match splitHeader d with
  | none => .error .runt
  | some (b, rest) =>
    match frameKind b.b0 with
    | none => .error .badPadding
    | some kind =>
      if rest.length < (decodeHeader b).payloadLength.toNat then .error .truncated
      else .ok (frameInstr kind sender (decodeHeader b).fields (rest.take (decodeHeader b).payloadLength.toNat))

/-! ### The encoder -/

/-- A `Bytes` operand (30_encoding R87): `le32(n) ++ data`. -/
def bytesField (data : Bytes) : Bytes := le32 (BitVec.ofNat 32 data.length) ++ data

/-- The bytes of an instruction: a command's message (30_encoding R86, R89, R90), or a frame (R80, R81). -/
def encode : Instr → Bytes
  | .init v p ty => 0x01 :: le16 v ++ le16 p ++ [ty]
  | .reset v p ty => 0x02 :: le16 v ++ le16 p ++ [ty]
  | .shutdown => [0x03]
  | .recv => [0x04]
  | .getPackets => [0x05]
  | .push data => 0x06 :: bytesField data
  | .flush => [0x07]
  | .send data => 0x08 :: bytesField data
  | .sendTo a data => 0x09 :: addrBytes a ++ bytesField data
  | .sendCtrl r a => 0x0A :: r :: addrBytes a
  | .isInitialized => [0x10]
  | .needsReset => [0x11]
  | .hasSubscribers => [0x12]
  | .regLookup a => 0x13 :: addrBytes a
  | .hdrEncode t r m l i f v => 0x20 :: t :: r :: m :: le16 l ++ [i, f] ++ le16 v
  | .hdrDecode b => 0x21 :: hdr7Bytes b
  | .pushFrame _ f payload => frameBytes .push f payload
  | .connectFrame _ f payload => frameBytes .connect f payload
  | .ackFrame _ f payload => frameBytes .ack f payload
  | .disconnectFrame _ f payload => frameBytes .disconnect f payload

/-- The command a pseudo-command stands for (30_encoding R95). -/
def Pseudo.expand : Pseudo → Instr
  | .connectTo a => .sendCtrl 1 a
  | .ackTo a => .sendCtrl 2 a
  | .disconnectFrom a => .sendCtrl 3 a

/-! ### The words of spec/opcode_table.json -/

/-- The first byte of an instruction says which port it is meant for: frames begin with 0xA0 to 0xBF (30_encoding R82),
and no command does (R89). -/
def isFrameByte (b0 : Byte) : Bool := b0 &&& 0xE0 == 0xA0

/-- The `n` lowest bytes of `w`, the lowest first: bit 0 of `w` is the least significant bit of the first byte. -/
def lowBytes : Nat → Nat → Bytes
  | 0, _ => []
  | n + 1, w => BitVec.ofNat 8 w :: lowBytes n (w / 256)

/-- How many bytes the instruction whose bits are `w` has (30_encoding R85, R90), its length field read where it has
one; `fallback` for a first byte that begins no instruction. -/
def tableLength (fallback w : Nat) : Nat :=
  let b0 := BitVec.ofNat 8 w
  if isFrameByte b0 then 7 + w / 2 ^ 8 % 2 ^ 16
  else
    match b0.toNat with
    | 0x01 => 6
    | 0x02 => 6
    | 0x03 => 1
    | 0x04 => 1
    | 0x05 => 1
    | 0x06 => 5 + w / 2 ^ 8 % 2 ^ 32
    | 0x07 => 1
    | 0x08 => 5 + w / 2 ^ 8 % 2 ^ 32
    | 0x09 => 11 + w / 2 ^ 56 % 2 ^ 32
    | 0x0A => 8
    | 0x10 => 1
    | 0x11 => 1
    | 0x12 => 1
    | 0x13 => 7
    | 0x20 => 10
    | 0x21 => 8
    | _ => fallback

/-- The bytes of the instruction whose `nbits` lowest bits are `w`'s and whose other bits are 0. -/
def tableBytes (nbits w : Nat) : Bytes :=
  if nbits = 0 then []
  else lowBytes (tableLength (nbits / 8) (w % 2 ^ nbits)) (w % 2 ^ nbits)

/-- Whether an instruction's bytes are meant for the driver port (a frame) rather than for the host port. -/
def isFrame : Bytes → Bool
  | b0 :: _ => isFrameByte b0
  | [] => false

/-- The sender of a frame laid out from a table word, which has none: 0.0.0.0:0 (log 9). -/
def tableSender : Addr := { ip := 0, port := 0 }

/-- The instruction the decoders read from a word of spec/opcode_table.json. -/
def decodeTableWord (nbits w : Nat) : Option Instr :=
  if isFrame (tableBytes nbits w) then (decodeDatagram tableSender (tableBytes nbits w)).toOption
  else (decodeCommand (tableBytes nbits w)).toOption

end Sys2Proof
end

