-- ==== Sys2Proof/Machine/State.lean ====
section
/-! DEFINITION. The architectural state of the block (10_state R22 to R34), the inputs and outputs of a run beside it
(10_state R35, 70_reset R306), the reasons a step can stop, and the state after power-on reset (10_state R37,
70_reset R290). -/
namespace Sys2Proof.Machine

/-! ### The driver port and the host port -/

/-- Answers of `DriverOpen` (60_exceptions R276). -/
inductive OpenAnswer where
  | ok
  | assignFail
  | bindFail
  | nonblockFail
  deriving DecidableEq, Repr

/-- Answers of `DriverClose` (60_exceptions R276). -/
inductive CloseAnswer where
  | ok
  | closeFail
  deriving DecidableEq, Repr

/-- Answers of `TxSend` (60_exceptions R276): `WROTE(n)` with any n ≥ 0, or `FAIL`. -/
inductive TxAnswer where
  | wrote (n : Nat)
  | fail
  deriving DecidableEq, Repr

/-- Answers of `RxPoll` (60_exceptions R276). -/
inductive RxAnswer where
  | datagram (sender : Addr) (bytes : Bytes)
  | wouldBlock
  | error
  deriving DecidableEq, Repr

/-- How the RxPoll answers of one receive cycle end, after the datagrams: with WOULD_BLOCK, with ERROR, or never, the
driver delivering datagrams for ever (70_reset R301, 93_implementation_defined I15). -/
inductive RxEnd where
  | wouldBlock
  | error
  | endless
  deriving DecidableEq, Repr

/-- The oracle draws one command meets (10_state R35, 70_reset R306: "each with its driver answers and time sample").
Nothing constrains them. No command opens or closes the socket more than once, so one answer of each is enough; the
RxPoll answers are a finite list of datagrams and their end (R301); the TxSend answers are a list in the order of the
calls, and `txRest` for every call past the list (log 2). -/
structure PortAnswers where
  /-- The sample of `NOW_MS` (60_exceptions R275). -/
  now : U32
  openAns : OpenAnswer
  closeAns : CloseAnswer
  /-- The datagrams RxPoll delivers, each with its sender, in order. -/
  arrivals : List (Addr × Bytes)
  rxEnd : RxEnd
  tx : List TxAnswer
  txRest : TxAnswer
  deriving DecidableEq, Repr

/-- A driver that answers OK, delivers nothing and takes every frame whole (65542 is the longest frame). Used where a
driver has to be named: in the reset state, which no rule reads it from (log 7), and in `withFetchWord` (log 9). -/
def PortAnswers.quiet : PortAnswers :=
  { now := 0, openAns := .ok, closeAns := .ok, arrivals := [], rxEnd := .wouldBlock, tx := [], txRest := .wrote 65542 }

/-- A driver port call with its answer (60_exceptions R276). -/
inductive DriverCall where
  | openSocket (port : U16) (answer : OpenAnswer)
  | closeSocket (answer : CloseAnswer)
  | rxPoll (answer : RxAnswer)
  | txSend (dest : Addr) (frame : Bytes) (answer : TxAnswer)
  deriving DecidableEq, Repr

/-- What comes from outside: a message on the host port with the draws its command will meet (30_encoding R86,
70_reset R306), or a power-on reset (70_reset R290). -/
inductive HostEvent where
  | command (message : Bytes) (answers : PortAnswers)
  | powerOn
  deriving DecidableEq, Repr

/-! ### The parts of the state -/

/-- `S.CFG` (10_state R23). -/
structure CfgReg where
  version : U16
  port : U16
  type : NodeType
  deriving DecidableEq, Repr

/-- `S.STATUS` (10_state R24). -/
structure Status where
  init : Bool
  needsReset : Bool
  deriving DecidableEq, Repr

/-- A Packet (00_scope R13). -/
structure Packet where
  sender : Addr
  hdr : Header
  payload : Bytes
  deriving DecidableEq, Repr

/-- A Member of a reassembly group (00_scope R13) has the fields of a Packet. -/
abbrev Member := Packet

/-- A reassembly group slot (10_state R28). -/
structure Slot where
  valid : Bool
  key : Byte
  ts : U32
  members : List Member
  deriving DecidableEq, Repr

/-- An entry of S.SUB or S.PUB (10_state R30, R31). -/
structure Entry where
  valid : Bool
  addr : Addr
  type : NodeType
  deriving DecidableEq, Repr

/-- An entry of S.PEND (10_state R32). -/
structure PendEntry where
  valid : Bool
  addr : Addr
  deriving DecidableEq, Repr

/-- The machine. The fields from `cfg` to `sl` are the architectural state of 10_state R22 ("There is no other
state"); `params` are the block's parameters (00_scope R8, log 5); `host` and `env` are inputs (log 1, log 2),
`responses` and `calls` what a run shows (70_reset R306, log 12). -/
structure State where
  params : Params
  /-- `S.CFG` (R23). -/
  cfg : CfgReg
  /-- `S.STATUS` (R24). -/
  status : Status
  /-- `S.FRAG_CTR` (R25). -/
  fragCtr : Byte
  /-- `S.OB` (R26). -/
  ob : Bytes
  /-- `S.IQ` (R27), the oldest packet first. -/
  iq : List Packet
  /-- `S.RS` (R28), slot 0 first. -/
  rs : List Slot
  /-- `S.SUB` (R30), entry 0 first. -/
  sub : List Entry
  /-- `S.PUB` (R31), entry 0 first. -/
  pub : List Entry
  /-- `S.PEND` (R32), entry 0 first. -/
  pend : List PendEntry
  /-- `S.SL` (R34), in order of acceptance; empty between commands. -/
  sl : List Packet
  /-- What waits on the host port, the next event first: the serial order of 60_exceptions R271. -/
  host : List HostEvent
  /-- The draws of the command being executed. -/
  env : PortAnswers
  /-- The responses given, the oldest first (30_encoding R88). -/
  responses : List Bytes
  /-- The driver port calls made, the oldest first (20_memory R69). -/
  calls : List DriverCall
  deriving DecidableEq, Repr

/-! ### Why a step stops -/

/-- The block has no traps (60_exceptions R266) and every command returns a code; the one way it stops is that a
command never returns. -/
inductive Fault where
  /-- Raised by RECV (`receiveCycle`) on an initialised block whose driver delivers datagrams without end: "the block
  hangs in that command" (70_reset R301; 93_implementation_defined I15, 'stuck'). Safe: nothing is claimed of a state
  after it. -/
  | recvHang
  deriving DecidableEq, Repr

/-- Reasons for which the model gives no meaning. -/
inductive Refusal where
  /-- Raised by an arm of `exec` whose instruction has no meaning yet. Safe. No arm of this model raises it. -/
  | notModelled (mnemonic : String)
  deriving DecidableEq, Repr

/-! ### Reset -/

/-- An invalid group slot. The spec gives the key and the stamp of an invalid slot no value (10_state R37): zero here,
DESIGN CHOICE, log 6. -/
def Slot.empty : Slot := { valid := false, key := 0, ts := 0, members := [] }

/-- An invalid entry. The spec gives its address and type no value (10_state R37): zero here, DESIGN CHOICE, log 6. -/
def Entry.empty : Entry := { valid := false, addr := { ip := 0, port := 0 }, type := .rover }

/-- An invalid pending entry. The spec gives its address no value (10_state R37): zero here, DESIGN CHOICE, log 6. -/
def PendEntry.empty : PendEntry := { valid := false, addr := { ip := 0, port := 0 } }

/-- Power-on reset of a block with the parameters `p` (10_state R37, 70_reset R290), nothing yet received and nothing
yet sent. -/
def State.resetWith (p : Params) : State :=
  { params := p
    cfg := { version := 0, port := 0, type := .rover }
    status := { init := false, needsReset := false }
    fragCtr := 0
    ob := []
    iq := []
    rs := List.replicate p.nGroups .empty
    sub := List.replicate p.nSub .empty
    pub := List.replicate p.nPub .empty
    pend := List.replicate p.nPend .empty
    sl := []
    host := []
    env := .quiet
    responses := []
    calls := [] }

/-- The machine right after power-on reset (70_reset R290), with the parameters of log 5. -/
def State.reset : State := State.resetWith Config.params

end Sys2Proof.Machine
end

