-- ==== Sys2Proof/Machine/Flags.lean ====
section
/-! DEFINITION. Every write of a flag: the two bits of S.STATUS (10_state R24, R38; 60_exceptions R264). The block has
no condition codes (R38). -/
namespace Sys2Proof.Machine

/-- INIT ← 1: the driver port has an open socket (10_state R24). -/
def State.setInit (s : State) : State := { s with status := { s.status with init := true } }

/-- INIT ← 0 (SHUTDOWN, and RESET before it reopens; 10_state R24). -/
def State.clearInit (s : State) : State := { s with status := { s.status with init := false } }

/-- NEEDS_RESET ← 1: a fatal receive or send failure (60_exceptions R264). -/
def State.setNeedsReset (s : State) : State := { s with status := { s.status with needsReset := true } }

/-- NEEDS_RESET ← 0: RESET only (60_exceptions R264). -/
def State.clearNeedsReset (s : State) : State := { s with status := { s.status with needsReset := false } }

end Sys2Proof.Machine
end

