-- ==== Sys2Proof/Machine/Ops.lean ====
section
/-! DEFINITION. The result codes and the response (60_exceptions R260, 30_encoding R88), which take the place of taking
a trap (60_exceptions R266); the driver port (R276); and sending frames (43_host_commands R201). -/
namespace Sys2Proof.Machine

/-! ### Result codes and responses -/

/-- The result codes (60_exceptions R260). -/
inductive ResultCode where
  | success
  | cannotCloseSocket
  | noUpdate
  | socketAssignFailure
  | socketBindFailure
  | socketNonblockingFailure
  | receiveFailure
  | partialMessage
  | sendFailure
  | useBeforeInitialized
  | messageTooLong
  | bufferFull
  | badArgument
  | badOpcode
  deriving DecidableEq, Repr

/-- The number of a result code (60_exceptions R260). -/
def ResultCode.byte : ResultCode → Byte
  | .success => 0
  | .cannotCloseSocket => 1
  | .noUpdate => 2
  | .socketAssignFailure => 3
  | .socketBindFailure => 4
  | .socketNonblockingFailure => 5
  | .receiveFailure => 6
  | .partialMessage => 7
  | .sendFailure => 8
  | .useBeforeInitialized => 9
  | .messageTooLong => 10
  | .bufferFull => 11
  | .badArgument => 12
  | .badOpcode => 13

/-- The code a message that is no command is answered with (30_encoding R92, R93). -/
def rejectCode : MsgReject → ResultCode
  | .badOpcode => .badOpcode
  | .badLength => .badArgument

/-- `return <CODE>` (00_scope R12): the response is the code byte alone (30_encoding R88). This is what the block does
in place of taking a trap (60_exceptions R266). -/
def State.reply (s : State) (code : ResultCode) : State := { s with responses := s.responses ++ [[code.byte]] }

/-- `return SUCCESS(results)` (00_scope R12): the results follow the code byte (30_encoding R88, R91). -/
def State.replyWith (s : State) (results : Bytes) : State :=
  { s with responses := s.responses ++ [ResultCode.success.byte :: results] }

/-- What every meaning but RECV answers: a next state. -/
abbrev Outcome := Host.Outcome State Fault Refusal

/-! ### The driver port -/

/-- A driver port call happens (20_memory R69: in the order of the pseudocode). -/
def State.logCall (s : State) (c : DriverCall) : State := { s with calls := s.calls ++ [c] }

/-- `DriverOpen(port)` (60_exceptions R276). -/
def driverOpen (port : U16) (s : State) : OpenAnswer × State :=
  (s.env.openAns, s.logCall (.openSocket port s.env.openAns))

/-- `DriverClose()` (60_exceptions R276). -/
def driverClose (s : State) : CloseAnswer × State := (s.env.closeAns, s.logCall (.closeSocket s.env.closeAns))

/-- The answer the driver gives to the next TxSend of the command. -/
def nextTxAnswer (e : PortAnswers) : TxAnswer :=
  match e.tx with
  | [] => e.txRest
  | a :: _ => a

/-- The draws left after one TxSend. -/
def afterTx (e : PortAnswers) : PortAnswers := { e with tx := e.tx.tail }

/-- `TxSend(dest, frame)` (60_exceptions R276): the frame goes out whole, by one call (20_memory R67). -/
def txSend (dest : Addr) (frame : Bytes) (s : State) : TxAnswer × State :=
  (nextTxAnswer s.env, { s with env := afterTx s.env }.logCall (.txSend dest frame (nextTxAnswer s.env)))

/-- The code of one TxSend answer for a frame of `len` bytes (43_host_commands R201): a count of `len` or more is a full
send. -/
def txCode (len : Nat) : TxAnswer → ResultCode
  | .fail => .sendFailure
  | .wrote n => if n < len then .partialMessage else .success

/-- NEEDS_RESET ← 1 on FAIL and on nothing else (60_exceptions R264). -/
def State.noteTx (s : State) : TxAnswer → State
  | .fail => s.setNeedsReset
  | .wrote _ => s

/-- The sends of TxBatch as one list, in order: frame-major, destinations in list order (20_memory R75,
43_host_commands R201). -/
def batchSends (frames : List Bytes) (dests : List Addr) : List (Addr × Bytes) :=
  frames.flatMap fun f => dests.map fun a => (a, f)

/-- Send in order, stop at the first send that is not full, and answer its code (43_host_commands R201). -/
def sendUntilFailure : List (Addr × Bytes) → State → ResultCode × State
  | [], s => (.success, s)
  | (a, f) :: rest, s =>
    match txCode f.length (txSend a f s).1 with
    | .success => sendUntilFailure rest (txSend a f s).2
    | code => (code, (txSend a f s).2.noteTx (txSend a f s).1)

/-- `TxBatch(frames, dests)` (43_host_commands R201). -/
def txBatch (frames : List Bytes) (dests : List Addr) (s : State) : ResultCode × State :=
  sendUntilFailure (batchSends frames dests) s

/-- `ControlFrame(r)` (40_header_codec R124): header-only, from the configuration in S.CFG. -/
def controlFrame (r : Req) (s : State) : Bytes :=
  encodeHeader { type := s.cfg.type, req := r, moreFrag := false, pad := padSignature, payloadLength := 0,
                 fragIndex := 0, fragRef := 0, protocolVersion := s.cfg.version }

/-! ### The host port -/

/-- The host port delivers a message: it leaves the queue, and the draws that came with it are those of its command
(30_encoding R86, 70_reset R306). -/
def State.loadCommand (s : State) (answers : PortAnswers) (rest : List HostEvent) : State :=
  { s with host := rest, env := answers }

/-- Power-on reset (70_reset R290) of a running block: every state field takes its reset value; the parameters stay,
what waits on the host port stays, and what the outside has seen stays seen (log 10). No driver call is made (R291). -/
def State.powerOnReset (s : State) (rest : List HostEvent) : State :=
  { State.resetWith s.params with host := rest, env := s.env, responses := s.responses, calls := s.calls }

end Sys2Proof.Machine
end

