-- ==== Sys2Proof/Machine/Frag.lean ====
section
/-! DEFINITION. The fragmentation and reassembly engine (41_fragmentation): shared operations of FLUSH, SEND, SEND_TO and
RECV. It has no opcode of its own. -/
namespace Sys2Proof.Machine

/-! ### Outbound -/

/-- The value NextRef moves the counter to (41_fragmentation R140): the next one, 0 skipped. -/
def nextRef (c : Byte) : Byte := if c + 1 = 0 then 1 else c + 1

/-- `FragCount(n) = ceil(n / FRAG_SIZE)` (41_fragmentation R142). -/
def fragCount (p : Params) (n : Nat) : Nat := (n + (p.fragSize - 1)) / p.fragSize

/-- A payload of `n` bytes is too long: `FragCount(n) > 256` (41_fragmentation R142). -/
def tooLong (p : Params) (n : Nat) : Bool := decide (fragCount p n > 256)

/-- Chunk `i` of a payload (41_fragmentation R141): `b[i*FRAG_SIZE .. min((i+1)*FRAG_SIZE, n))`. -/
def chunk (p : Params) (b : Bytes) (i : Nat) : Bytes := (b.drop (i * p.fragSize)).take p.fragSize

/-- The header of frame `i` of a batch with reference `ref` (41_fragmentation R141). -/
def fragHeader (s : State) (ref : Byte) (b : Bytes) (i : Nat) : Header :=
  { type := s.cfg.type, req := .push, moreFrag := decide (i + 1 < fragCount s.params b.length), pad := padSignature,
    payloadLength := BitVec.ofNat 16 (chunk s.params b i).length, fragIndex := BitVec.ofNat 8 i, fragRef := ref,
    protocolVersion := s.cfg.version }

/-- The frames of a batch with reference `ref` (41_fragmentation R141). -/
def batchFrames (s : State) (ref : Byte) (b : Bytes) : List Bytes :=
  (List.range (fragCount s.params b.length)).map fun i => encodeHeader (fragHeader s ref b i) ++ chunk s.params b i

/-- `PrepareFrag(b)` (41_fragmentation R141): the frames, and the state with S.FRAG_CTR advanced once; an empty payload
gives no frames and leaves the counter. -/
def prepareFrag (b : Bytes) (s : State) : List Bytes × State :=
  if fragCount s.params b.length = 0 then ([], s)
  else (batchFrames s (nextRef s.fragCtr) b, { s with fragCtr := nextRef s.fragCtr })

/-! ### Inbound -/

/-- `Age(t, ts)` (41_fragmentation R152): modulo 2^32. -/
def age (t ts : U32) : U32 := t - ts

/-- The group is older than the staleness window at time `t` (41_fragmentation R151: strictly). -/
def stale (p : Params) (t : U32) (g : Slot) : Bool := decide ((age t g.ts).toNat > p.staleMs.toNat)

/-- The slot's group is given up (41_fragmentation R143, R149, R151): valid ← 0, members ← []. -/
def Slot.release (g : Slot) : Slot := { g with valid := false, members := [] }

/-- The slot opens a group (41_fragmentation R144). -/
def Slot.start (key : Byte) (g : Slot) : Slot := { g with valid := true, key := key, members := [] }

/-- The slot whose group has the key `ref` (41_fragmentation R143, lookup). -/
def findGroup (rs : List Slot) (ref : Byte) : Option Nat := rs.findIdx? fun g => g.valid && g.key == ref

/-- The lowest-index invalid slot (41_fragmentation R144). -/
def freeSlot (rs : List Slot) : Option Nat := rs.findIdx? fun g => !g.valid

/-- The terminal member: the first in arrival order with `more_frag = 0` (41_fragmentation R146). -/
def terminal (members : List Member) : Option Member := members.find? fun m => !m.hdr.moreFrag

/-- The group is complete (41_fragmentation R147): a terminal member exists and its index + 1 is the member count. -/
def complete (members : List Member) : Bool :=
  match terminal members with
  | none => false
  | some m => decide (members.length = m.hdr.fragIndex.toNat + 1)

/-- `StableSortByIndex` (41_fragmentation R148): ascending frag_index, equal indices in arrival order. -/
def sortByIndex (members : List Member) : List Member :=
  members.insertionSort fun a b => a.hdr.fragIndex.toNat ≤ b.hdr.fragIndex.toNat

/-- The packet a complete group yields (41_fragmentation R148): the payloads of the sorted members joined, under the
sender and the unchanged header of the last sorted member. -/
def reassembled (members : List Member) : Option Packet :=
  match (sortByIndex members).getLast? with
  | none => none
  | some last =>
    some { sender := last.sender, hdr := last.hdr, payload := (sortByIndex members).flatMap (·.payload) }

/-- Append a fragment to the group in slot `g`, and close the group if that completes it (41_fragmentation R145 to
R149); a full group drops the fragment (R150). -/
def addToGroup (g : Nat) (m : Member) (t : U32) (s : State) : State :=
  match s.rs[g]? with
  | none => s
  | some slot =>
    if slot.members.length = s.params.groupMax then s
    else if complete (slot.members ++ [m]) then
      { s with rs := s.rs.set g { slot with ts := t, members := slot.members ++ [m] }.release
               sl := s.sl ++ (reassembled (slot.members ++ [m])).toList }
    else { s with rs := s.rs.set g { slot with ts := t, members := slot.members ++ [m] } }

/-- Open a group for the fragment in the lowest-index invalid slot and append it; with every slot valid the fragment is
dropped (41_fragmentation R144). -/
def startGroup (m : Member) (t : U32) (s : State) : State :=
  match freeSlot s.rs with
  | none => s
  | some g => addToGroup g m t { s with rs := s.rs.modify g (Slot.start m.hdr.fragRef) }

/-- The slot lookup finds for `ref`, and whether its group is stale at time `t` (41_fragmentation R143). -/
def staleAt (s : State) (t : U32) (g : Nat) : Bool :=
  match s.rs[g]? with
  | none => false
  | some slot => stale s.params t slot

/-- `ProcessFrag(h, p, src, t)` (41_fragmentation R143), the fragment given as the Member it becomes: a group found
stale on lookup is discarded first and the fragment starts a fresh one (90_conflicts C3). -/
def processFrag (m : Member) (t : U32) (s : State) : State :=
  match findGroup s.rs m.hdr.fragRef with
  | none => startGroup m t s
  | some g =>
    if staleAt s t g then startGroup m t { s with rs := s.rs.modify g Slot.release }
    else addToGroup g m t s

/-- `EvictStale(t)` (41_fragmentation R151), slot by slot. -/
def evictStale (t : U32) (s : State) : State :=
  { s with rs := s.rs.map fun g => if g.valid && stale s.params t g then g.release else g }

end Sys2Proof.Machine
end

