-- ==== Sys2Proof/Machine/Registry.lean ====
section
/-! DEFINITION. The connection-state registry (42_registry): the table primitives, the transitions packets drive, and the
reads of the tables. -/
namespace Sys2Proof.Machine

/-! ### Table primitives -/

/-- The entry is valid and holds the address `a` (42_registry R180, R181). -/
def Entry.holds (a : Addr) (e : Entry) : Bool := e.valid && e.addr == a

/-- The entry is valid and holds the address `a` (42_registry R180, R181). -/
def PendEntry.holds (a : Addr) (e : PendEntry) : Bool := e.valid && e.addr == a

/-- `Find(T, a)` in S.SUB or S.PUB (42_registry R181). -/
def findEntry (table : List Entry) (a : Addr) : Option Nat := table.findIdx? (Entry.holds a)

/-- `Find(S.PEND, a)` (42_registry R181). -/
def findPend (table : List PendEntry) (a : Addr) : Option Nat := table.findIdx? (PendEntry.holds a)

/-- `Upsert(T, a, ty)` (42_registry R182). -/
def upsert (a : Addr) (ty : NodeType) (table : List Entry) : List Entry :=
  match findEntry table a with
  | some i => table.modify i fun e => { e with type := ty }
  | none =>
    match table.findIdx? fun e => !e.valid with
    | none => table
    | some j => table.set j { valid := true, addr := a, type := ty }

/-- `PendInsert(a)` (42_registry R183). -/
def pendInsert (a : Addr) (table : List PendEntry) : List PendEntry :=
  match findPend table a with
  | some _ => table
  | none =>
    match table.findIdx? fun e => !e.valid with
    | none => table
    | some j => table.set j { valid := true, addr := a }

/-- `Remove(T, a)` in S.SUB or S.PUB (42_registry R184). -/
def removeEntry (a : Addr) (table : List Entry) : List Entry :=
  match findEntry table a with
  | some i => table.modify i fun e => { e with valid := false }
  | none => table

/-- `Remove(S.PEND, a)` (42_registry R184). -/
def removePend (a : Addr) (table : List PendEntry) : List PendEntry :=
  match findPend table a with
  | some i => table.modify i fun e => { e with valid := false }
  | none => table

/-! ### Transitions -/

/-- PUSH: deliver the packet to S.IQ (42_registry R186). The zero-length branch is the table's; no packet that came
through ParseDatagram takes it (90_conflicts C2). -/
def pushDeliver (pkt : Packet) (s : State) : State :=
  if pkt.hdr.payloadLength = 0 then s
  else if s.iq.length = s.params.iqCap then s
  else { s with iq := s.iq ++ [pkt] }

/-- CONNECT (42_registry R187): the sender becomes a subscriber. -/
def connectTransition (pkt : Packet) (s : State) : State := { s with sub := upsert pkt.sender pkt.hdr.type s.sub }

/-- ACK (42_registry R188): the sender is pending no more and becomes a publisher. -/
def ackTransition (pkt : Packet) (s : State) : State :=
  { s with pend := removePend pkt.sender s.pend, pub := upsert pkt.sender pkt.hdr.type s.pub }

/-- DISCONNECT (42_registry R189): the sender leaves both sets; S.PEND is not looked at. -/
def disconnectTransition (pkt : Packet) (s : State) : State :=
  { s with pub := removeEntry pkt.sender s.pub, sub := removeEntry pkt.sender s.sub }

/-- `ApplyPacket(pkt)` (42_registry R185). -/
def applyPacket (s : State) (pkt : Packet) : State :=
  match pkt.hdr.req with
  | .push => pushDeliver pkt s
  | .connect => connectTransition pkt s
  | .ack => ackTransition pkt s
  | .disconnect => disconnectTransition pkt s

/-! ### Reads -/

/-- The addresses of a table's valid entries in ascending slot order. -/
def validAddrs (table : List Entry) : List Addr := (table.filter (·.valid)).map (·.addr)

/-- The addresses of the valid entries of S.PEND in ascending slot order. -/
def pendAddrs (table : List PendEntry) : List Addr := (table.filter (·.valid)).map (·.addr)

/-- `SubscriberAddrs()` (42_registry R190). -/
def subscriberAddrs (s : State) : List Addr := validAddrs s.sub

/-- `HasSubs()` (42_registry R191). -/
def hasSubs (s : State) : Bool := s.sub.any (·.valid)

/-- The type byte REG_LOOKUP reports for an address: 0 when it is not in the table (42_registry R192). -/
def lookupType (table : List Entry) (a : Addr) : Byte :=
  match findEntry table a with
  | none => 0
  | some i =>
    match table[i]? with
    | none => 0
    | some e => e.type.bits.setWidth 8

/-- The flags byte of REG_LOOKUP (30_encoding R91, 42_registry R192). -/
def lookupFlags (s : State) (a : Addr) : Byte :=
  (if (findEntry s.sub a).isSome then 1 else 0) ||| (if (findEntry s.pub a).isSome then 2 else 0) |||
    (if (findPend s.pend a).isSome then 4 else 0)

/-- REG_LOOKUP (42_registry R192). It needs no INIT and changes nothing. -/
def execRegLookup (a : Addr) (s : State) : Outcome :=
  .next (s.replyWith [lookupFlags s a, lookupType s.sub a, lookupType s.pub a])

end Sys2Proof.Machine
end

