-- ==== Sys2Proof/Machine/Receive.lean ====
section
/-! DEFINITION. The receive cycle and GET_PACKETS (43_host_commands R205 to R207). -/
namespace Sys2Proof.Machine

/-- What the drain loop does with a parsed datagram (43_host_commands R205): an unfragmented frame is staged, any other
goes to the reassembly engine. -/
def routeFrame (t : U32) (m : Member) (s : State) : State :=
  if m.hdr.fragRef = 0 then { s with sl := s.sl ++ [m] } else processFrag m t s

/-- One pass of the drain loop for `DATAGRAM(src, d)` (43_host_commands R205). -/
def acceptDatagram (t : U32) (s : State) (arrival : Addr × Bytes) : State :=
  match parseDatagram arrival.2 with
  | none => s.logCall (.rxPoll (.datagram arrival.1 arrival.2))
  | some (h, p) =>
    routeFrame t { sender := arrival.1, hdr := h, payload := p }
      (s.logCall (.rxPoll (.datagram arrival.1 arrival.2)))

/-- The drain loop over the datagrams a cycle delivers, S.SL emptied first (43_host_commands R205). -/
def drain (t : U32) (arrivals : List (Addr × Bytes)) (s : State) : State :=
  arrivals.foldl (acceptDatagram t) { s with sl := [] }

/-- `EndOfCycle(t)` (43_host_commands R206): the registry pass over S.SL in order, then eviction. -/
def endOfCycle (t : U32) (s : State) : State := { evictStale t (s.sl.foldl applyPacket s) with sl := [] }

/-- One receive cycle (43_host_commands R205 after its prologue) in which the driver delivers `arrivals` and then answers
`fin`. With WOULD_BLOCK the end-of-cycle pass runs; with ERROR what the cycle staged is discarded and NEEDS_RESET set,
the groups kept; a driver that never stops delivering keeps the command from returning (70_reset R301, log 4). -/
def receiveCycle (arrivals : List (Addr × Bytes)) (fin : RxEnd) (s : State) : Outcome :=
  match fin with
  | .wouldBlock =>
    .next ((endOfCycle s.env.now ((drain s.env.now arrivals s).logCall (.rxPoll .wouldBlock))).reply .success)
  | .error =>
    .next ({ ((drain s.env.now arrivals s).logCall (.rxPoll .error)).setNeedsReset with sl := [] }.reply
      .receiveFailure)
  | .endless => .fault .recvHang

/-- RECV's prologue (43_host_commands R200 step 5), then the receive cycle. -/
def receive (arrivals : List (Addr × Bytes)) (fin : RxEnd) (s : State) : Outcome :=
  if s.status.init then receiveCycle arrivals fin s else .next (s.reply .useBeforeInitialized)

/-- RECV (43_host_commands R205), with the RxPoll answers that came with the command. -/
def execRecv (s : State) : Outcome := receive s.env.arrivals s.env.rxEnd s

/-- A number in a u32 field of a GET_PACKETS response (30_encoding R91, R97); a number that does not fit has no stated
value there (log 11). -/
def countField (n : Nat) : Bytes := le32 (if n < 2 ^ 32 then BitVec.ofNat 32 n else Config.oversizeCount n)

/-- A Packet record (30_encoding R97). -/
def packetRecord (p : Packet) : Bytes :=
  addrBytes p.sender ++ encodeHeader p.hdr ++ countField p.payload.length ++ p.payload

/-- GET_PACKETS (43_host_commands R207): the whole queue, or NO_UPDATE. It needs no INIT. -/
def execGetPackets (s : State) : Outcome :=
  match s.iq with
  | [] => .next (s.reply .noUpdate)
  | p :: ps => .next ({ s with iq := [] }.replyWith (countField (p :: ps).length ++ (p :: ps).flatMap packetRecord))

end Sys2Proof.Machine
end

