-- ==== Sys2Proof/Machine/Frames.lean ====
section
/-! DEFINITION. The frame kinds (30_encoding R96; 42_registry R186 to R189). A frame acts on the block only by being
received: its meaning is one receive cycle (43_host_commands R205) in which the driver delivers that frame and then
answers WOULD_BLOCK (log 8), so that the validity clauses, reassembly, the transition of its kind and eviction all
happen as a RECV makes them happen. The transition itself is `applyPacket` (42_registry R185). -/
namespace Sys2Proof.Machine

/-- A PUSH frame is received (42_registry R186). -/
def execPushFrame (sender : Addr) (f : FrameFields) (payload : Bytes) (s : State) : Outcome :=
  receive [(sender, frameBytes .push f payload)] .wouldBlock s

/-- A CONNECT frame is received (42_registry R187). -/
def execConnectFrame (sender : Addr) (f : FrameFields) (payload : Bytes) (s : State) : Outcome :=
  receive [(sender, frameBytes .connect f payload)] .wouldBlock s

/-- An ACK frame is received (42_registry R188). -/
def execAckFrame (sender : Addr) (f : FrameFields) (payload : Bytes) (s : State) : Outcome :=
  receive [(sender, frameBytes .ack f payload)] .wouldBlock s

/-- A DISCONNECT frame is received (42_registry R189). -/
def execDisconnectFrame (sender : Addr) (f : FrameFields) (payload : Bytes) (s : State) : Outcome :=
  receive [(sender, frameBytes .disconnect f payload)] .wouldBlock s

end Sys2Proof.Machine
end

