-- ==== Sys2Proof/Machine/Operands.lean ====
section
/-! DEFINITION. The operand forms of a command: the byte-wide operands that name a 2-bit or 1-bit value, with the
ranges of 43_host_commands R200 step 3. `none` is out of range (BAD_ARGUMENT). Every other operand is the value
itself (30_encoding R87). -/
namespace Sys2Proof.Machine

/-- `node_type ≤ 3` and `type ≤ 3` (43_host_commands R200 step 3). -/
def nodeTypeOperand (b : Byte) : Option NodeType := if b.toNat ≤ 3 then some (.ofBits (b.setWidth 2)) else none

/-- `req ≤ 3` for HDR_ENCODE (43_host_commands R200 step 3). -/
def reqOperand (b : Byte) : Option Req := if b.toNat ≤ 3 then some (.ofBits (b.setWidth 2)) else none

/-- `req ∈ {1, 2, 3}` for SEND_CTRL (43_host_commands R200 step 3): a control frame is no PUSH. -/
def ctrlReqOperand (b : Byte) : Option Req := if b = 0 then none else reqOperand b

/-- `more_frag ≤ 1` for HDR_ENCODE (43_host_commands R200 step 3). -/
def moreFragOperand (b : Byte) : Option Bool := if b.toNat ≤ 1 then some (b != 0) else none

end Sys2Proof.Machine
end

