-- ==== Sys2Proof/Machine/Lifecycle.lean ====
section
/-! DEFINITION. INIT, RESET and SHUTDOWN (43_host_commands R202 to R204). -/
namespace Sys2Proof.Machine

/-- The code of a DriverOpen answer (43_host_commands R202). -/
def openCode : OpenAnswer → ResultCode
  | .ok => .success
  | .assignFail => .socketAssignFailure
  | .bindFail => .socketBindFailure
  | .nonblockFail => .socketNonblockingFailure

/-- The init part of INIT and RESET (43_host_commands R202, R203): open the socket; if that succeeds take the
configuration and set INIT, else leave S.CFG and S.STATUS as they are. -/
def openAndConfigure (version port : U16) (type : NodeType) (s : State) : State :=
  match (driverOpen port s).1 with
  | .ok => { (driverOpen port s).2 with cfg := { version := version, port := port, type := type } }.setInit.reply .success
  | answer => (driverOpen port s).2.reply (openCode answer)

/-- INIT (43_host_commands R202; prologue R200 steps 3 and 4). -/
def execInit (version port : U16) (nodeType : Byte) (s : State) : Outcome :=
  match nodeTypeOperand nodeType with
  | none => .next (s.reply .badArgument)
  | some type =>
    if s.status.init then .next (s.reply .badArgument)
    else .next (openAndConfigure version port type s)

/-- The DISCONNECT sends of RESET: to every subscriber, the answers ignored (43_host_commands R203). -/
def sendIgnoring (frame : Bytes) : List Addr → State → State
  | [], s => s
  | a :: rest, s => sendIgnoring frame rest (txSend a frame s).2

/-- The shutdown part of RESET, best effort (43_host_commands R203): NEEDS_RESET is not set by it. -/
def resetShutdown (s : State) : State :=
  (driverClose (sendIgnoring (controlFrame .disconnect s) (subscriberAddrs s) s)).2.clearInit

/-- RESET (43_host_commands R203; prologue R200 step 3). -/
def execReset (version port : U16) (nodeType : Byte) (s : State) : Outcome :=
  match nodeTypeOperand nodeType with
  | none => .next (s.reply .badArgument)
  | some type =>
    .next (openAndConfigure version port type (if s.status.init then resetShutdown s else s).clearNeedsReset)

/-- The first error stays (60_exceptions R263; `first` in 43_host_commands R204). -/
def firstError (first code : ResultCode) : ResultCode := if first = .success then code else first

/-- The DISCONNECT sends of SHUTDOWN: to every subscriber, even after a failure, with the first error
(43_host_commands R204). -/
def sendToAll (frame : Bytes) : List Addr → ResultCode → State → ResultCode × State
  | [], first, s => (first, s)
  | a :: rest, first, s =>
    sendToAll frame rest (firstError first (txCode frame.length (txSend a frame s).1))
      ((txSend a frame s).2.noteTx (txSend a frame s).1)

/-- The code of a DriverClose answer (43_host_commands R204). -/
def closeCode : CloseAnswer → ResultCode
  | .ok => .success
  | .closeFail => .cannotCloseSocket

/-- The body of SHUTDOWN after its sends: close, clear INIT, report the first error, a send error before a close error
(43_host_commands R204). -/
def closeAndReport (sent : ResultCode × State) : State :=
  (driverClose sent.2).2.clearInit.reply (firstError sent.1 (closeCode (driverClose sent.2).1))

/-- SHUTDOWN (43_host_commands R204; prologue R200 step 5). The registry is not touched (90_conflicts C1). -/
def execShutdown (s : State) : Outcome :=
  if s.status.init then
    .next (closeAndReport (sendToAll (controlFrame .disconnect s) (subscriberAddrs s) .success s))
  else .next (s.reply .useBeforeInitialized)

end Sys2Proof.Machine
end

