-- ==== Sys2Proof/Machine/Queries.lean ====
section
/-! DEFINITION. The commands that read and change nothing: the status queries (43_host_commands R213 to R215) and the
codec commands (40_header_codec R126, R127). None needs INIT (20_memory R68). -/
namespace Sys2Proof.Machine

/-- IS_INITIALIZED (43_host_commands R213). -/
def execIsInitialized (s : State) : Outcome := .next (s.replyWith [flagByte s.status.init])

/-- NEEDS_RESET (43_host_commands R214). -/
def execNeedsReset (s : State) : Outcome := .next (s.replyWith [flagByte s.status.needsReset])

/-- HAS_SUBSCRIBERS (43_host_commands R215). -/
def execHasSubscribers (s : State) : Outcome := .next (s.replyWith [flagByte (hasSubs s)])

/-- The results of HDR_ENCODE (30_encoding R91). -/
def encodeResults (h : Header) : Bytes := encodeHeader h ++ [flagByte (validity h), flagByte (lastFrag h)]

/-- HDR_ENCODE (40_header_codec R126; 43_host_commands R200 step 3). An invalid header is encoded all the same. -/
def execHdrEncode (type req moreFrag : Byte) (payloadLength : U16) (fragIndex fragRef : Byte) (protocolVersion : U16)
    (s : State) : Outcome :=
  match nodeTypeOperand type, reqOperand req, moreFragOperand moreFrag with
  | some t, some r, some m =>
    .next (s.replyWith (encodeResults
      { type := t, req := r, moreFrag := m, pad := padSignature, payloadLength := payloadLength,
        fragIndex := fragIndex, fragRef := fragRef, protocolVersion := protocolVersion }))
  | _, _, _ => .next (s.reply .badArgument)

/-- The results of HDR_DECODE (30_encoding R91). -/
def decodeResults (h : Header) : Bytes :=
  [h.type.bits.setWidth 8, h.req.bits.setWidth 8, flagByte h.moreFrag, h.pad.setWidth 8] ++ le16 h.payloadLength ++
    [h.fragIndex, h.fragRef] ++ le16 h.protocolVersion ++ [flagByte (validity h), flagByte (lastFrag h)]

/-- HDR_DECODE (40_header_codec R127): always SUCCESS. -/
def execHdrDecode (hdr : Hdr7) (s : State) : Outcome := .next (s.replyWith (decodeResults (decodeHeader hdr)))

end Sys2Proof.Machine
end

