-- ==== Sys2Proof/Machine/Transmit.lean ====
section
/-! DEFINITION. PUSH, FLUSH, SEND, SEND_TO and SEND_CTRL (43_host_commands R208 to R212). -/
namespace Sys2Proof.Machine

/-- PUSH (43_host_commands R208; R200 step 6): all of the data or nothing. It needs no INIT. -/
def execPush (data : Bytes) (s : State) : Outcome :=
  if s.ob.length + data.length > s.params.obCap then .next (s.reply .bufferFull)
  else .next ({ s with ob := s.ob ++ data }.reply .success)

/-- Fragment a payload and send the batch to `dests` (`TxBatch(PrepareFrag(b), dests)`; 43_host_commands R209 to R211),
and answer with TxBatch's code. -/
def fragmentAndSend (b : Bytes) (dests : List Addr) (s : State) : State :=
  let sent := txBatch (prepareFrag b s).1 dests (prepareFrag b s).2
  sent.2.reply sent.1

/-- FLUSH (43_host_commands R209; R200 step 5): the buffer is drained before it is sent. -/
def execFlush (s : State) : Outcome :=
  if s.status.init then .next (fragmentAndSend s.ob (subscriberAddrs s) { s with ob := [] })
  else .next (s.reply .useBeforeInitialized)

/-- The prologue of SEND and SEND_TO (43_host_commands R200 steps 5 and 6), then the batch. -/
def sendData (b : Bytes) (dests : List Addr) (s : State) : State :=
  if !s.status.init then s.reply .useBeforeInitialized
  else if tooLong s.params b.length then s.reply .messageTooLong
  else fragmentAndSend b dests s

/-- SEND (43_host_commands R210): to every subscriber; S.OB is neither read nor written. -/
def execSend (data : Bytes) (s : State) : Outcome := .next (sendData data (subscriberAddrs s) s)

/-- SEND_TO (43_host_commands R211): to one address, registered or not. -/
def execSendTo (dest : Addr) (data : Bytes) (s : State) : Outcome := .next (sendData data [dest] s)

/-- A fully sent CONNECT makes its destination pending (42_registry R183, 43_host_commands R212). -/
def notePending (req : Req) (dest : Addr) (code : ResultCode) (s : State) : State :=
  if code = .success ∧ req = .connect then { s with pend := pendInsert dest s.pend } else s

/-- SEND_CTRL (43_host_commands R212; R200 steps 3 and 5). -/
def execSendCtrl (req : Byte) (dest : Addr) (s : State) : Outcome :=
  match ctrlReqOperand req with
  | none => .next (s.reply .badArgument)
  | some r =>
    if s.status.init then
      let sent := txBatch [controlFrame r s] [dest] s
      .next ((notePending r dest sent.1 sent.2).reply sent.1)
    else .next (s.reply .useBeforeInitialized)

end Sys2Proof.Machine
end

