-- ==== Sys2Proof/Machine/Dispatch.lean ====
section
/-! DEFINITION. The meaning of every instruction: one arm per row of spec/opcode_table.json. -/
namespace Sys2Proof.Machine

def exec (i : Instr) (s : State) : Host.Outcome State Fault Refusal :=
  match i with
  | .init version port nodeType => Sys2Proof.Machine.execInit version port nodeType s
  | .reset version port nodeType => Sys2Proof.Machine.execReset version port nodeType s
  | .shutdown => Sys2Proof.Machine.execShutdown s
  | .recv => Sys2Proof.Machine.execRecv s
  | .getPackets => Sys2Proof.Machine.execGetPackets s
  | .push data => Sys2Proof.Machine.execPush data s
  | .flush => Sys2Proof.Machine.execFlush s
  | .send data => Sys2Proof.Machine.execSend data s
  | .sendTo dest data => Sys2Proof.Machine.execSendTo dest data s
  | .sendCtrl req dest => Sys2Proof.Machine.execSendCtrl req dest s
  | .isInitialized => Sys2Proof.Machine.execIsInitialized s
  | .needsReset => Sys2Proof.Machine.execNeedsReset s
  | .hasSubscribers => Sys2Proof.Machine.execHasSubscribers s
  | .regLookup addr => Sys2Proof.Machine.execRegLookup addr s
  | .hdrEncode type req moreFrag payloadLength fragIndex fragRef protocolVersion => Sys2Proof.Machine.execHdrEncode type req moreFrag payloadLength fragIndex fragRef protocolVersion s
  | .hdrDecode hdr => Sys2Proof.Machine.execHdrDecode hdr s
  | .pushFrame sender fields payload => Sys2Proof.Machine.execPushFrame sender fields payload s
  | .connectFrame sender fields payload => Sys2Proof.Machine.execConnectFrame sender fields payload s
  | .ackFrame sender fields payload => Sys2Proof.Machine.execAckFrame sender fields payload s
  | .disconnectFrame sender fields payload => Sys2Proof.Machine.execDisconnectFrame sender fields payload s

end Sys2Proof.Machine
end

