-- ==== Sys2Proof/Machine/Step.lean ====
section
/-! DEFINITION. One step: the block takes what the host port delivers next (20_memory R66, R69) and executes it whole
(10_state R21); and where the host lays an instruction for the next step. -/
namespace Sys2Proof.Machine

/-- One step. With nothing on the host port the block stays IDLE (10_state R21, log 13). A message is decoded
(43_host_commands R200 steps 1 and 2) and its command executed to its response; a power-on event resets the block. -/
def step (s : State) : Host.Outcome State Fault Refusal :=
  match s.host with
  | [] => .next s
  | .powerOn :: rest => .next (s.powerOnReset rest)
  | .command message answers :: rest =>
    match decodeCommand message with
    | .error e => .next ((s.loadCommand answers rest).reply (rejectCode e))
    | .ok i => exec i (s.loadCommand answers rest)

/-- `s` with the instruction whose bits are `w` as the next thing the block runs (log 9): a command as the next message
on the host port, with a quiet driver; a frame as the one datagram that the driver delivers to the next message, a
RECV, of an initialised block. -/
def State.withFetchWord (s : State) (nbits w : Nat) : State :=
  if isFrame (tableBytes nbits w) then
    { s.setInit with
        host := .command (encode .recv) { PortAnswers.quiet with arrivals := [(tableSender, tableBytes nbits w)] } ::
          s.host }
  else { s with host := .command (tableBytes nbits w) .quiet :: s.host }

end Sys2Proof.Machine
end

