-- ==== Sys2Proof/Machine/Asm.lean ====
section
/-! DEFINITION. The assembly syntax of command sequences (30_encoding R94) with its pseudo-commands (R95): from text to
the commands it stands for. What R94 does not say of white space and malformed lines is fixed in log 17. -/
namespace Sys2Proof.Machine

/-! ### Lines and operands -/

/-- The double quote. -/
def quoteMark : Char := Char.ofNat 34

/-- Spaces and tabs separate; a carriage return counts as one of them (DESIGN CHOICE, log 17). -/
def isBlank (c : Char) : Bool := c == ' ' || c == '\t' || c == '\r'

/-- A line without its comment: `;` starts one that runs to the end of the line (30_encoding R94). DESIGN CHOICE (log
17): not inside quotes, where R94 does not say. -/
def stripComment (quoted : Bool) : List Char → List Char
  | [] => []
  | c :: cs =>
    if c = quoteMark then c :: stripComment (!quoted) cs
    else if c = ';' && !quoted then []
    else c :: stripComment quoted cs

/-- Without the blanks at both ends. -/
def trimBlank (cs : List Char) : List Char := ((cs.dropWhile isBlank).reverse.dropWhile isBlank).reverse

/-- The parts of an operand text, within one line, between the separators `sep` that stand outside quotes (DESIGN CHOICE,
log 17: R94 does not say what a separator inside quotes does). -/
def splitOn (sep : Char) (quoted : Bool) : List Char → List (List Char)
  | [] => [[]]
  | c :: cs =>
    if c = sep && !quoted then [] :: splitOn sep false cs
    else
      match splitOn sep (if c = quoteMark then !quoted else quoted) cs with
      | [] => [[c]]
      | p :: ps => (c :: p) :: ps

/-- The operands of a line, separated by commas (30_encoding R94); none on an empty text. DESIGN CHOICE (log 17): blanks
around an operand are dropped. -/
def operandTexts (cs : List Char) : List (List Char) :=
  if trimBlank cs = [] then [] else (splitOn ',' false cs).map trimBlank

/-! ### Operand forms -/

/-- The value of a hexadecimal digit, of either case (DESIGN CHOICE, log 17). -/
def hexDigit (c : Char) : Option Nat :=
  if '0' ≤ c && c ≤ '9' then some (c.toNat - 48)
  else if 'a' ≤ c && c ≤ 'f' then some (c.toNat - 87)
  else if 'A' ≤ c && c ≤ 'F' then some (c.toNat - 55)
  else none

/-- The value of a decimal digit. -/
def decDigit (c : Char) : Option Nat := if '0' ≤ c && c ≤ '9' then some (c.toNat - 48) else none

/-- The number written by digits of a base, the first the most significant. -/
def digitsValue (base : Nat) (digit : Char → Option Nat) (acc : Nat) : List Char → Option Nat
  | [] => some acc
  | c :: cs =>
    match digit c with
    | none => none
    | some d => digitsValue base digit (base * acc + d) cs

/-- "Integers are decimal or `0x` hexadecimal" (30_encoding R94). DESIGN CHOICE (log 17): leading zeros change nothing, and
the prefix has a small `x`. -/
def numberOperand : List Char → Option Nat
  | [] => none
  | ['0', 'x'] => none
  | '0' :: 'x' :: ds => digitsValue 16 hexDigit 0 ds
  | ds => digitsValue 10 decDigit 0 ds

/-- A number that fits `w` bits; a larger one is malformed (DESIGN CHOICE, log 17). -/
def wordOperand (w : Nat) (cs : List Char) : Option (BitVec w) :=
  match numberOperand cs with
  | none => none
  | some n => if n < 2 ^ w then some (BitVec.ofNat w n) else none

/-- `node_type` and `type` operands: a name or a byte (30_encoding R94; 95_test_vectors T-C2 writes 4). -/
def typeOperand (cs : List Char) : Option Byte :=
  match String.ofList cs with
  | "ROVER" => some 0
  | "DRONE" => some 1
  | "REMOTE" => some 2
  | "GS" => some 3
  | _ => wordOperand 8 cs

/-- `req` operands: a name or a byte (30_encoding R94). -/
def reqTextOperand (cs : List Char) : Option Byte :=
  match String.ofList cs with
  | "PUSH" => some 0
  | "CONNECT" => some 1
  | "ACK" => some 2
  | "DISCONNECT" => some 3
  | _ => wordOperand 8 cs

/-- An octet of a dotted quad. DESIGN CHOICE (log 17): decimal only, as R94 shows it; it does not say whether an octet may
be `0x` hexadecimal too. -/
def octetOperand (cs : List Char) : Option Byte :=
  match cs with
  | [] => none
  | ds =>
    match digitsValue 10 decDigit 0 ds with
    | none => none
    | some n => if n < 256 then some (BitVec.ofNat 8 n) else none

/-- An Addr, `a.b.c.d:port` (30_encoding R94). DESIGN CHOICE (log 17): the port is an integer in either base, the octets
decimal, and no blank stands inside. -/
def addrOperand (cs : List Char) : Option Addr :=
  match splitOn ':' false cs with
  | [quad, port] =>
    match (splitOn '.' false quad).mapM octetOperand, wordOperand 16 port with
    | some [a, b, c, d], some p => some { ip := rd32 d c b a, port := p }
    | _, _ => none
  | _ => none

/-- Two hexadecimal digits per byte (30_encoding R94); an odd digit or a blank is malformed (DESIGN CHOICE, log 17). -/
def hexBytes : List Char → Option Bytes
  | [] => some []
  | h :: l :: cs =>
    match hexDigit h, hexDigit l, hexBytes cs with
    | some a, some b, some bs => some (BitVec.ofNat 8 (16 * a + b) :: bs)
    | _, _, _ => none
  | [_] => none

/-- ASCII text, one byte per character (30_encoding R94). DESIGN CHOICE (log 17): ASCII is the characters below 128, and
there are no escapes. -/
def asciiBytes : List Char → Option Bytes
  | [] => some []
  | c :: cs =>
    match asciiBytes cs with
    | none => none
    | some bs => if c.toNat < 128 then some (BitVec.ofNat 8 c.toNat :: bs) else none

/-- The characters up to a quote that ends the text. -/
def closeQuote : List Char → Option (List Char)
  | [] => none
  | c :: cs =>
    if c = quoteMark then (if cs = [] then some [] else none)
    else
      match closeQuote cs with
      | none => none
      | some t => some (c :: t)

/-- A Bytes operand: hexadecimal digits in quotes after an `x`, or text in quotes (30_encoding R94). DESIGN CHOICE (log
17): the quotes may hold nothing, and the `x` is small and stands against its quote. -/
def bytesTextOperand : List Char → Option Bytes
  | [] => none
  | c :: cs =>
    if c = quoteMark then (closeQuote cs).bind asciiBytes
    else if c = 'x' then
      match cs with
      | [] => none
      | q :: text => if q = quoteMark then (closeQuote text).bind hexBytes else none
    else none

/-- A Hdr7 operand: exactly 14 hexadecimal digits (30_encoding R94). -/
def hdr7Operand (cs : List Char) : Option Hdr7 :=
  match cs with
  | [] => none
  | c :: _ =>
    if c = 'x' then
      match bytesTextOperand cs with
      | some [b0, b1, b2, b3, b4, b5, b6] => some ⟨b0, b1, b2, b3, b4, b5, b6⟩
      | _ => none
    else none

/-! ### Lines -/

/-- INIT and RESET lines. -/
def lifecycleLine (mk : U16 → U16 → Byte → Instr) (v p ty : List Char) : Option Instr :=
  match wordOperand 16 v, wordOperand 16 p, typeOperand ty with
  | some v, some p, some ty => some (mk v p ty)
  | _, _, _ => none

/-- HDR_ENCODE lines; `more_frag` is a byte like the others (95_test_vectors T-C2 writes 2). -/
def hdrEncodeLine (t r m l i f v : List Char) : Option Instr :=
  match typeOperand t, reqTextOperand r, wordOperand 8 m, wordOperand 16 l, wordOperand 8 i, wordOperand 8 f,
    wordOperand 16 v with
  | some t, some r, some m, some l, some i, some f, some v => some (.hdrEncode t r m l i f v)
  | _, _, _, _, _, _, _ => none

/-- SEND_TO lines. -/
def sendToLine (a b : List Char) : Option Instr :=
  match addrOperand a, bytesTextOperand b with
  | some a, some b => some (.sendTo a b)
  | _, _ => none

/-- SEND_CTRL lines. -/
def sendCtrlLine (r a : List Char) : Option Instr :=
  match reqTextOperand r, addrOperand a with
  | some r, some a => some (.sendCtrl r a)
  | _, _ => none

/-- The command of a mnemonic and its operands, in R90 order (30_encoding R94, R95). DESIGN CHOICE (log 17): only
the spec's upper case spelling is read, and an unknown mnemonic or a wrong number of operands is malformed. -/
def commandLine (mnemonic : String) (operands : List (List Char)) : Option Instr :=
  match mnemonic, operands with
  | "INIT", [v, p, ty] => lifecycleLine .init v p ty
  | "RESET", [v, p, ty] => lifecycleLine .reset v p ty
  | "SHUTDOWN", [] => some .shutdown
  | "RECV", [] => some .recv
  | "GET_PACKETS", [] => some .getPackets
  | "PUSH", [b] => (bytesTextOperand b).map .push
  | "FLUSH", [] => some .flush
  | "SEND", [b] => (bytesTextOperand b).map .send
  | "SEND_TO", [a, b] => sendToLine a b
  | "SEND_CTRL", [r, a] => sendCtrlLine r a
  | "IS_INITIALIZED", [] => some .isInitialized
  | "NEEDS_RESET", [] => some .needsReset
  | "HAS_SUBSCRIBERS", [] => some .hasSubscribers
  | "REG_LOOKUP", [a] => (addrOperand a).map .regLookup
  | "HDR_ENCODE", [t, r, m, l, i, f, v] => hdrEncodeLine t r m l i f v
  | "HDR_DECODE", [h] => (hdr7Operand h).map .hdrDecode
  | "CONNECT_TO", [a] => (addrOperand a).map fun a => (Pseudo.connectTo a).expand
  | "ACK_TO", [a] => (addrOperand a).map fun a => (Pseudo.ackTo a).expand
  | "DISCONNECT_FROM", [a] => (addrOperand a).map fun a => (Pseudo.disconnectFrom a).expand
  | _, _ => none

/-- One line of assembly: the commands on it, or `none` if it is malformed. A line with only a comment
gives no command, as in the programs of 95_test_vectors. DESIGN CHOICE (log 17): neither does an empty line, and blanks
may stand before the mnemonic. -/
def assembleLine (line : List Char) : Option (List Instr) :=
  let text := trimBlank (stripComment false line)
  if text = [] then some []
  else
    let mnemonic := text.takeWhile fun c => !isBlank c
    (commandLine (String.ofList mnemonic) (operandTexts (text.drop mnemonic.length))).map fun i => [i]

/-- The lines of a text. Every line break ends a line: after a `;` R94 says so ("runs to the end of the line", so a quote
mark in a comment has no effect on the next line). DESIGN CHOICE (log 17): inside quotes too, where R94 does not say, so
no quoted text holds a line break and a quote left open makes its line malformed. -/
def splitLines : List Char → List (List Char)
  | [] => [[]]
  | c :: cs =>
    if c = '\n' then [] :: splitLines cs
    else
      match splitLines cs with
      | [] => [[c]]
      | line :: rest => (c :: line) :: rest

/-- "One command per line" (30_encoding R94). A text with a malformed line has no meaning (log 17). -/
def assemble (text : List Char) : Option (List Instr) := ((splitLines text).mapM assembleLine).map List.flatten

end Sys2Proof.Machine
end

