-- ==== Sys2Proof/Safety.lean ====
section
/-! DEFINITION. What the spec says of every state of a run (the invariants of 10_state R26 to R34 and 30_encoding R97), and the
terms statements are made in. -/
namespace Sys2Proof.Machine

/-! ### Invariants -/

/-- The keys of the valid groups, in slot order. -/
def validKeys (rs : List Slot) : List Byte := (rs.filter (·.valid)).map (·.key)

/-- The arrays have the sizes of the parameters (10_state R28, R30, R31, R32) and the parameters are legal
(00_scope R8). -/
abbrev State.LayoutInv (s : State) : Prop :=
  s.params.Legal ∧ s.rs.length = s.params.nGroups ∧ s.sub.length = s.params.nSub ∧ s.pub.length = s.params.nPub ∧
    s.pend.length = s.params.nPend

/-- 10_state R33: within each table no two valid entries have equal addresses. -/
abbrev State.RegistryInv (s : State) : Prop :=
  (validAddrs s.sub).Nodup ∧ (validAddrs s.pub).Nodup ∧ (pendAddrs s.pend).Nodup

/-- 10_state R29 of one slot. -/
abbrev Slot.Inv (p : Params) (g : Slot) : Prop :=
  g.key ≠ 0 ∧ 1 ≤ g.members.length ∧ g.members.length ≤ p.groupMax ∧ ∀ m ∈ g.members, m.hdr.fragRef = g.key

/-- 10_state R29. -/
abbrev State.StoreInv (s : State) : Prop :=
  (validKeys s.rs).Nodup ∧ ∀ g ∈ s.rs, g.valid = true → g.Inv s.params

/-- 10_state R26, R27 and R34: the capacities hold and the staging list is empty between commands. -/
abbrev State.QueueInv (s : State) : Prop :=
  s.ob.length ≤ s.params.obCap ∧ s.iq.length ≤ s.params.iqCap ∧ s.sl = []

/-- 30_encoding R97 ("The header is valid"): every queued packet is a PUSH with a valid header, and so that this stays
true, every member of a group has a valid header. -/
abbrev State.HeaderInv (s : State) : Prop :=
  (∀ p ∈ s.iq, validity p.hdr = true ∧ p.hdr.req = .push) ∧
    ∀ g ∈ s.rs, g.valid = true → ∀ m ∈ g.members, validity m.hdr = true

/-- What holds between commands. -/
abbrev State.Inv (s : State) : Prop :=
  s.LayoutInv ∧ s.RegistryInv ∧ s.StoreInv ∧ s.QueueInv ∧ s.HeaderInv

/-! ### Terms of statements -/

/-- The driver's answer to TxSend number `i` of a command (60_exceptions R276). -/
def txAnswerAt (e : PortAnswers) (i : Nat) : TxAnswer := e.tx[i]?.getD e.txRest

/-- The first `n` of `sends`, each with the driver's answer to it, as driver calls in order. -/
def txCalls (e : PortAnswers) (sends : List (Addr × Bytes)) (n : Nat) : List DriverCall :=
  (sends.take n).mapIdx fun i af => .txSend af.1 af.2 (txAnswerAt e i)

/-- A full send (43_host_commands R201): WROTE(n) with n at least the frame's length. -/
def TxAnswer.Full (frame : Bytes) (a : TxAnswer) : Prop := ∃ n, a = .wrote n ∧ frame.length ≤ n

/-- How sending `sends` in order goes (43_host_commands R201): either every send is full, or the first `made - 1` are and
the last one made fails or is partial, which gives the code. -/
def BatchOutcome (e : PortAnswers) (sends : List (Addr × Bytes)) (made : Nat) (code : ResultCode) : Prop :=
  (code = .success ∧ made = sends.length ∧
      ∀ i a f, sends[i]? = some (a, f) → (txAnswerAt e i).Full f) ∨
    ∃ j a f, sends[j]? = some (a, f) ∧ made = j + 1 ∧
      (∀ i a' f', i < j → sends[i]? = some (a', f') → (txAnswerAt e i).Full f') ∧
      ((txAnswerAt e j = .fail ∧ code = .sendFailure) ∨
        ∃ n, txAnswerAt e j = .wrote n ∧ n < f.length ∧ code = .partialMessage)

/-- The groups after eviction at time `t` (41_fragmentation R151), slot by slot: a valid group whose age exceeds
STALE_MS loses its members and its valid bit, every other slot stays. -/
def evicted (p : Params) (t : U32) (rs : List Slot) : List Slot :=
  rs.map fun g => if g.valid = true ∧ p.staleMs.toNat < (t - g.ts).toNat then { g with valid := false, members := [] } else g

/-- The members the datagrams of a receive cycle give, in order (43_host_commands R205): those ParseDatagram accepts,
each under its sender. -/
def acceptedMembers (arrivals : List (Addr × Bytes)) : List Member :=
  arrivals.filterMap fun a =>
    match parseDatagram a.2 with
    | none => none
    | some (h, p) => some { sender := a.1, hdr := h, payload := p }

/-- The RxPoll calls of a receive cycle that delivers `arrivals` and ends with `last` (43_host_commands R205). -/
def rxCalls (arrivals : List (Addr × Bytes)) (last : RxAnswer) : List DriverCall :=
  arrivals.map (fun a => .rxPoll (.datagram a.1 a.2)) ++ [.rxPoll last]

/-- The frame ControlFrame builds (40_header_codec R124), byte by byte: `base` is 0xA4 for CONNECT, 0xA8 for ACK and 0xAC
for DISCONNECT (30_encoding R82). -/
def controlBytes (base : Byte) (s : State) : Bytes :=
  [base ||| s.cfg.type.bits.setWidth 8, 0, 0, 0, 0] ++ le16 s.cfg.version

/-- Two entries that differ at most in what an invalid entry holds, which the spec leaves unspecified and "never read
while valid = 0" (10_state R37). -/
def Entry.Same (a b : Entry) : Prop := a.valid = b.valid ∧ (a.valid = true → a = b)

/-- As `Entry.Same`, for S.PEND. -/
def PendEntry.Same (a b : PendEntry) : Prop := a.valid = b.valid ∧ (a.valid = true → a = b)

/-- As `Entry.Same`, for a group slot. -/
def Slot.Same (a b : Slot) : Prop := a.valid = b.valid ∧ (a.valid = true → a = b)

/-- Equal but for the unspecified contents of invalid slots and entries. -/
def State.Same (s t : State) : Prop :=
  List.Forall₂ Slot.Same s.rs t.rs ∧ List.Forall₂ Entry.Same s.sub t.sub ∧ List.Forall₂ Entry.Same s.pub t.pub ∧
    List.Forall₂ PendEntry.Same s.pend t.pend ∧
    t = { s with rs := t.rs, sub := t.sub, pub := t.pub, pend := t.pend }

/-- Two outcomes of a step that are the same but for the unspecified contents of invalid slots and entries. -/
def SameOutcome : Host.Outcome State Fault Refusal → Host.Outcome State Fault Refusal → Prop
  | .next s, .next t => s.Same t
  | .fault a, .fault b => a = b
  | .refused a, .refused b => a = b
  | _, _ => False

end Sys2Proof.Machine
end

