-- ==== Sys2Proof/Certificates/Slice0/Obligations.lean ====
section
/-! DEFINITION. The statements for the provers. Each docstring names the rule or section it comes from. The spec marks many
of its rules as decisions of its own (92_eei_decisions); they are its rules all the same, and a statement of one says
nothing about the repository the spec was written from. -/

open Sys2Proof Sys2Proof.Machine

/-! ### Encodings -/

/-- 40_header_codec R128, its three laws. -/
def Obligations.HeaderCodecRoundTrips : Prop :=
  (∀ b : Hdr7, b.b0.extractLsb' 5 3 = 0b101 → encodeHeader (decodeHeader b) = hdr7Bytes b) ∧
    (∀ h : Header, h.pad = 0b101 → ∃ b, encodeHeader h = hdr7Bytes b ∧ decodeHeader b = h) ∧
    ∀ h : Header, ∃ b, encodeHeader h = hdr7Bytes b ∧ decodeHeader b = { h with pad := 0b101 }

/-- 30_encoding R82, R83 with 40_header_codec R122 (a): byte 0 is always transmitted in 0xA0 to 0xBF, and a received
header whose byte 0 is outside fails validity whatever its other bytes are. -/
def Obligations.PaddingSignatureIsChecked : Prop :=
  (∀ h : Header, 0xA0 ≤ (headerByte0 h).toNat ∧ (headerByte0 h).toNat ≤ 0xBF) ∧
    ∀ b : Hdr7, (b.b0.toNat < 0xA0 ∨ 0xBF < b.b0.toNat) → validity (decodeHeader b) = false

/-- 30_encoding R96: the mask and match table of the frame kinds finds a kind exactly for a good padding, and the kind
is the `req` the codec reads. -/
def Obligations.FrameKindsAgreeWithHeader : Prop :=
  ∀ b : Hdr7, frameKind b.b0 =
    if (decodeHeader b).pad = 0b101 then some (decodeHeader b).req else none

/-- 30_encoding sections 1 and 2 (R80, R81, R86 to R90): no bit of an encoding is dropped. -/
def Obligations.DecodeOfEncode : Prop :=
  ∀ i : Instr, i.wellFormed = true →
    (i.sender? = none → decodeCommand (encode i) = .ok i) ∧
      ∀ a, i.sender? = some a → decodeDatagram a (encode i) = .ok i

/-- 30_encoding R85, R86 and R90: a message that decodes is the one encoding of the command it decodes to, and a
datagram that decodes is the encoding of its frame with ignored bytes after it. -/
def Obligations.EncodeOfDecode : Prop :=
  (∀ m i, decodeCommand m = .ok i → i.wellFormed = true ∧ i.sender? = none ∧ encode i = m) ∧
    ∀ a d i, decodeDatagram a d = .ok i →
      i.wellFormed = true ∧ i.sender? = some a ∧ ∃ rest, d = encode i ++ rest

/-- Words written out from 30_encoding R81, R89 and R90 decode to what they stand for. -/
def Obligations.SpecWordsDecode : Prop :=
  decodeCommand [0x01, 0x05, 0x00, 0x28, 0x23, 0x01] = .ok (.init 5 9000 1) ∧
    decodeCommand [0x06, 0x02, 0x00, 0x00, 0x00, 0x41, 0x42] = .ok (.push [0x41, 0x42]) ∧
    decodeCommand [0x0A, 0x01, 0x0A, 0x00, 0x00, 0x01, 0x28, 0x23] = .ok (.sendCtrl 1 ⟨0x0A000001, 9000⟩) ∧
    decodeCommand [0x13, 0xC0, 0xA8, 0x01, 0x14, 0x28, 0x23] = .ok (.regLookup ⟨0xC0A80114, 9000⟩) ∧
    decodeCommand [0x20, 0x01, 0x00, 0x00, 0x03, 0x00, 0x02, 0x07, 0x05, 0x00] = .ok (.hdrEncode 1 0 0 3 2 7 5) ∧
    ∀ a, decodeDatagram a [0xA1, 0x01, 0x00, 0x02, 0x07, 0x05, 0x00, 0x4F, 0x99] =
      .ok (.pushFrame a { type := .drone, moreFrag := false, payloadLength := 1, fragIndex := 2, fragRef := 7,
                          protocolVersion := 5 } [0x4F])

/-- 30_encoding R92: a message with a reserved opcode, or empty, is answered with BAD_OPCODE (13) and changes no
state. -/
def Obligations.ReservedOpcodesAnswerBadOpcode : Prop :=
  ∀ (s : State) (message : Bytes) (answers : PortAnswers) (rest : List HostEvent),
    s.host = .command message answers :: rest →
    (message = [] ∨ ∃ op operands, message = op :: operands ∧
      (op.toNat = 0x00 ∨ (0x0B ≤ op.toNat ∧ op.toNat ≤ 0x0F) ∨ (0x14 ≤ op.toNat ∧ op.toNat ≤ 0x1F) ∨
        0x22 ≤ op.toNat)) →
    step s = .next { s with host := rest, env := answers, responses := s.responses ++ [[13]] }

/-- 30_encoding R93 with the lengths of R90: a message of a listed opcode whose length is not the opcode's is answered
with BAD_ARGUMENT (12) and changes no state; an unlisted opcode is answered with BAD_OPCODE whatever the length. -/
def Obligations.WrongLengthsAnswerBadArgument : Prop :=
  ∀ (s : State) (op : Byte) (operands : Bytes) (answers : PortAnswers) (rest : List HostEvent),
    s.host = .command (op :: operands) answers :: rest →
    ((∃ n, (op.toNat, n) ∈ [(0x01, 6), (0x02, 6), (0x03, 1), (0x04, 1), (0x05, 1), (0x07, 1), (0x0A, 8), (0x10, 1),
          (0x11, 1), (0x12, 1), (0x13, 7), (0x20, 10), (0x21, 8)] ∧ 1 + operands.length ≠ n) ∨
        (op.toNat ∈ [0x06, 0x08] ∧
          (1 + operands.length < 5 ∨ ∃ n : U32, operands.take 4 = le32 n ∧ 1 + operands.length ≠ 5 + n.toNat)) ∨
        (op.toNat = 0x09 ∧
          (1 + operands.length < 11 ∨
            ∃ n : U32, (operands.drop 6).take 4 = le32 n ∧ 1 + operands.length ≠ 11 + n.toNat)) →
      step s = .next { s with host := rest, env := answers, responses := s.responses ++ [[12]] }) ∧
    (op.toNat ∉ [0x01, 0x02, 0x03, 0x04, 0x05, 0x06, 0x07, 0x08, 0x09, 0x0A, 0x10, 0x11, 0x12, 0x13, 0x20, 0x21] →
      step s = .next { s with host := rest, env := answers, responses := s.responses ++ [[13]] })

/-- 30_encoding R95: a pseudo-command is exactly one SEND_CTRL message. -/
def Obligations.PseudoCommandsAreSendCtrl : Prop :=
  ∀ a : Addr, encode (Pseudo.connectTo a).expand = 0x0A :: 1 :: addrBytes a ∧
    encode (Pseudo.ackTo a).expand = 0x0A :: 2 :: addrBytes a ∧
    encode (Pseudo.disconnectFrom a).expand = 0x0A :: 3 :: addrBytes a ∧
    ∀ p : Pseudo, decodeCommand (encode p.expand) = .ok p.expand

/-! ### The step -/

/-- 20_memory R66 and R69, 30_encoding R86: the step runs the command the next message decodes to, and nothing else is
around it but that the message has left the host port and its draws are loaded; with nothing on the host port the
block stays as it is (log 13). -/
def Obligations.StepRunsDecodedCommand : Prop :=
  (∀ (s : State) (message : Bytes) (answers : PortAnswers) (rest : List HostEvent) (i : Instr),
      s.host = .command message answers :: rest → decodeCommand message = .ok i →
      step s = exec i { s with host := rest, env := answers }) ∧
    ∀ s : State, s.host = [] → step s = .next s

/-- The model's convention for frames (log 8): a RECV to which the driver delivers one frame and then WOULD_BLOCK is
the frame's own meaning. -/
def Obligations.StepRunsReceivedFrame : Prop :=
  ∀ (s : State) (answers : PortAnswers) (rest : List HostEvent) (i : Instr) (a : Addr),
    i.sender? = some a → s.host = .command [0x04] answers :: rest → answers.arrivals = [(a, encode i)] →
    answers.rxEnd = .wouldBlock →
    step s = exec i { s with host := rest, env := answers }

/-- 10_state R37, 70_reset R290 and R291: the power-on value of every state field (what R37 leaves unspecified is not
said), for the reset state of every choice of parameters and for a power-on event in any state, which is answered by a
next state, makes no driver call, keeps the parameters and leaves the host port (log 10). -/
def Obligations.PowerOnValues : Prop :=
  ∀ (s : State) (p : Params) (rest : List HostEvent),
    ∃ t, step { s with host := .powerOn :: rest } = .next t ∧ t.params = s.params ∧ t.host = rest ∧
      t.calls = s.calls ∧
      ∀ u : State, u = t ∨ u = State.resetWith p →
        u.cfg = { version := 0, port := 0, type := .rover } ∧ u.status = { init := false, needsReset := false } ∧
          u.fragCtr = 0 ∧ u.ob = [] ∧ u.iq = [] ∧ u.sl = [] ∧
          u.rs.length = u.params.nGroups ∧ (∀ g ∈ u.rs, g.valid = false ∧ g.members = []) ∧
          u.sub.length = u.params.nSub ∧ (∀ e ∈ u.sub, e.valid = false) ∧
          u.pub.length = u.params.nPub ∧ (∀ e ∈ u.pub, e.valid = false) ∧
          u.pend.length = u.params.nPend ∧ ∀ e ∈ u.pend, e.valid = false

/-! ### Codec commands and queries -/

/-- 40_header_codec R126: HDR_ENCODE, whole. -/
def Obligations.HdrEncodeResponds : Prop :=
  ∀ (s : State) (t r m : Byte) (l : U16) (i f : Byte) (v : U16),
    encode (.hdrEncode t r m l i f v) = [0x20, t, r, m] ++ le16 l ++ [i, f] ++ le16 v ∧
    exec (.hdrEncode t r m l i f v) s = .next { s with responses := s.responses ++
      [if 3 < t.toNat ∨ 3 < r.toNat ∨ 1 < m.toNat then [(12 : Byte)]
       else (0 : Byte) :: (0xA0 ||| (m <<< 4) ||| (r <<< 2) ||| t) :: le16 l ++ [i, f] ++ le16 v ++
        [if (r ≠ 0 ∨ l ≠ 0) ∧ (m = 0 ∨ f ≠ 0) then 1 else 0, if m = 0 ∧ f ≠ 0 then 1 else 0]] }

/-- 40_header_codec R127 with R121 to R123: HDR_DECODE, whole. -/
def Obligations.HdrDecodeResponds : Prop :=
  ∀ (s : State) (b : Hdr7),
    encode (.hdrDecode b) = [0x21, b.b0, b.b1, b.b2, b.b3, b.b4, b.b5, b.b6] ∧
    exec (.hdrDecode b) s = .next { s with responses := s.responses ++
      [[0, b.b0 &&& 3, (b.b0 >>> 2) &&& 3, (b.b0 >>> 4) &&& 1, b.b0 >>> 5, b.b1, b.b2, b.b3, b.b4, b.b5, b.b6,
        if ((b.b0 >>> 2) &&& 3 ≠ 0 ∨ b.b1 ≠ 0 ∨ b.b2 ≠ 0) ∧ ((b.b0 >>> 4) &&& 1 = 0 ∨ b.b4 ≠ 0) ∧ b.b0 >>> 5 = 5
          then 1 else 0,
        if (b.b0 >>> 4) &&& 1 = 0 ∧ b.b4 ≠ 0 then 1 else 0]] }

/-- 43_host_commands R213, R214 and R215: the status queries answer and change nothing, in every state. -/
def Obligations.StatusQueriesRespond : Prop :=
  ∀ s : State,
    (encode .isInitialized = [0x10] ∧ encode .needsReset = [0x11] ∧ encode .hasSubscribers = [0x12]) ∧
    exec .isInitialized s = .next { s with responses := s.responses ++ [[0, if s.status.init then 1 else 0]] } ∧
    exec .needsReset s = .next { s with responses := s.responses ++ [[0, if s.status.needsReset then 1 else 0]] } ∧
    exec .hasSubscribers s = .next { s with responses := s.responses ++
      [[0, if ∃ e ∈ s.sub, e.valid = true then 1 else 0]] }

/-- 42_registry R192: REG_LOOKUP, in every state whose tables hold an address once (10_state R33). -/
def Obligations.RegLookupResponds : Prop :=
  ∀ (s : State) (a : Addr), s.RegistryInv →
    encode (.regLookup a) = 0x13 :: addrBytes a ∧
    ∃ subType pubType : Byte,
      exec (.regLookup a) s = .next { s with responses := s.responses ++
        [[0, (if a ∈ validAddrs s.sub then 1 else 0) ||| (if a ∈ validAddrs s.pub then 2 else 0) |||
            (if a ∈ pendAddrs s.pend then 4 else 0), subType, pubType]] } ∧
      (∀ e ∈ s.sub, e.valid = true → e.addr = a → subType = e.type.bits.setWidth 8) ∧
      (a ∉ validAddrs s.sub → subType = 0) ∧
      (∀ e ∈ s.pub, e.valid = true → e.addr = a → pubType = e.type.bits.setWidth 8) ∧
      (a ∉ validAddrs s.pub → pubType = 0)

/-! ### Lifecycle -/

/-- 43_host_commands R202: INIT, whole. -/
def Obligations.InitOpensAndConfigures : Prop :=
  ∀ (s : State) (v p : U16) (ty : Byte),
    encode (.init v p ty) = 0x01 :: le16 v ++ le16 p ++ [ty] ∧
    (3 < ty.toNat ∨ s.status.init = true →
      exec (.init v p ty) s = .next { s with responses := s.responses ++ [[12]] }) ∧
    ∀ T : NodeType, ty.toNat = T.bits.toNat → s.status.init = false →
      exec (.init v p ty) s = .next
        (match s.env.openAns with
          | .ok => { s with cfg := { version := v, port := p, type := T }, status := { s.status with init := true },
                            calls := s.calls ++ [.openSocket p .ok], responses := s.responses ++ [[0]] }
          | .assignFail => { s with calls := s.calls ++ [.openSocket p .assignFail],
                                    responses := s.responses ++ [[3]] }
          | .bindFail => { s with calls := s.calls ++ [.openSocket p .bindFail], responses := s.responses ++ [[4]] }
          | .nonblockFail => { s with calls := s.calls ++ [.openSocket p .nonblockFail],
                                      responses := s.responses ++ [[5]] })

/-- 43_host_commands R203 with 70_reset R292: RESET, whole. Its DISCONNECTs are built from the old configuration,
their answers and the close answer are ignored, NEEDS_RESET is cleared. -/
def Obligations.ResetReopensAndKeepsTheRest : Prop :=
  ∀ (s : State) (v p : U16) (ty : Byte),
    encode (.reset v p ty) = 0x02 :: le16 v ++ le16 p ++ [ty] ∧
    (3 < ty.toNat → exec (.reset v p ty) s = .next { s with responses := s.responses ++ [[12]] }) ∧
    ∀ (T : NodeType) (sends : List (Addr × Bytes)), ty.toNat = T.bits.toNat →
      sends = (if s.status.init then (subscriberAddrs s).map fun a => (a, controlBytes 0xAC s) else []) →
      exec (.reset v p ty) s = .next
        { s with
            cfg := if s.env.openAns = .ok then { version := v, port := p, type := T } else s.cfg
            status := { init := decide (s.env.openAns = .ok), needsReset := false }
            env := { s.env with tx := s.env.tx.drop sends.length }
            calls := s.calls ++ txCalls s.env sends sends.length ++
              (if s.status.init then [.closeSocket s.env.closeAns] else []) ++ [.openSocket p s.env.openAns]
            responses := s.responses ++ [[match s.env.openAns with
              | .ok => 0
              | .assignFail => 3
              | .bindFail => 4
              | .nonblockFail => 5]] }

/-- 43_host_commands R204: SHUTDOWN, whole: it needs INIT, sends to every subscriber whatever the answers are, closes,
clears INIT, and reports the first error. -/
def Obligations.ShutdownDisconnectsAndCloses : Prop :=
  ∀ (s : State) (sends : List (Addr × Bytes)) (codes : List Byte),
    sends = ((subscriberAddrs s).map fun a => (a, controlBytes 0xAC s)) →
    codes = ((List.range sends.length).map fun i =>
      match txAnswerAt s.env i with
      | .fail => 8
      | .wrote n => if n < 7 then 7 else 0) →
    encode .shutdown = [0x03] ∧
    (s.status.init = false → exec .shutdown s = .next { s with responses := s.responses ++ [[9]] }) ∧
    (s.status.init = true →
      exec .shutdown s = .next
        { s with
            status := { init := false, needsReset := s.status.needsReset || codes.contains 8 }
            env := { s.env with tx := s.env.tx.drop sends.length }
            calls := s.calls ++ txCalls s.env sends sends.length ++ [.closeSocket s.env.closeAns]
            responses := s.responses ++
              [[((codes ++ [if s.env.closeAns = CloseAnswer.closeFail then 1 else 0]).find? fun c => c != 0).getD 0]] })

/-! ### The receive cycle -/

/-- 43_host_commands R205 and R206: RECV, whole. What the engine does with a routed fragment is stated apart
(`FragmentOpensGroup` and the statements after it), and what a packet does to the registry too. -/
def Obligations.RecvRunsOneCycle : Prop :=
  ∀ s s1 s2 : State,
    encode .recv = [0x04] ∧
    (s.status.init = false → exec .recv s = .next { s with responses := s.responses ++ [[9]] }) ∧
    (s1 = (acceptedMembers s.env.arrivals).foldl (fun u m =>
        if m.hdr.fragRef = 0 then { u with sl := u.sl ++ [m] } else processFrag m s.env.now u) { s with sl := [] } →
      s2 = s1.sl.foldl applyPacket s → s.status.init = true →
      (s.env.rxEnd = .wouldBlock →
        exec .recv s = .next
          { s with rs := evicted s.params s.env.now s1.rs, iq := s2.iq, sub := s2.sub, pub := s2.pub, pend := s2.pend,
                   sl := [], calls := s.calls ++ rxCalls s.env.arrivals .wouldBlock,
                   responses := s.responses ++ [[0]] }) ∧
      (s.env.rxEnd = .error →
        exec .recv s = .next
          { s with rs := s1.rs, status := { s.status with needsReset := true }, sl := [],
                   calls := s.calls ++ rxCalls s.env.arrivals .error, responses := s.responses ++ [[6]] }))

/-- 70_reset R301: an initialised block whose driver delivers datagrams for ever does not return from RECV. -/
def Obligations.RecvHangsOnEndlessDatagrams : Prop :=
  ∀ s : State, s.status.init = true → s.env.rxEnd = .endless → exec .recv s = .fault .recvHang

/-- 20_memory R74 and 42_registry R186: a cycle of unfragmented PUSH frames puts them in S.IQ in arrival order, and
those that no longer fit are dropped. -/
def Obligations.RecvDeliversPushesInOrder : Prop :=
  ∀ s : State, s.status.init = true → s.env.rxEnd = .wouldBlock → s.iq.length ≤ s.params.iqCap →
    (∀ m ∈ acceptedMembers s.env.arrivals, m.hdr.fragRef = 0 ∧ m.hdr.req = .push) →
    ∃ t, exec .recv s = .next t ∧
      t.iq = s.iq ++ (acceptedMembers s.env.arrivals).take (s.params.iqCap - s.iq.length) ∧
      t.sub = s.sub ∧ t.pub = s.pub ∧ t.pend = s.pend

/-- 41_fragmentation R151: after a cycle that ended with WOULD_BLOCK no valid group is older than STALE_MS at the
cycle's time sample, and a group the cycle neither touched nor found older is kept as it was. -/
def Obligations.RecvEvictsExactlyStaleGroups : Prop :=
  ∀ s : State, s.status.init = true → s.env.rxEnd = .wouldBlock →
    ∃ t, exec .recv s = .next t ∧
      (∀ g ∈ t.rs, g.valid = true → (s.env.now - g.ts).toNat ≤ s.params.staleMs.toNat) ∧
      ∀ (i : Nat) (g : Slot), s.rs[i]? = some g → g.valid = true →
        (∀ m ∈ acceptedMembers s.env.arrivals, m.hdr.fragRef ≠ g.key) →
        (s.env.now - g.ts).toNat ≤ s.params.staleMs.toNat → t.rs[i]? = some g

/-- 43_host_commands R207 and 30_encoding R97: GET_PACKETS, whole. `count` is how a number is written in a u32 field;
for one that does not fit the spec states no value (log 11). -/
def Obligations.GetPacketsDrainsQueue : Prop :=
  ∃ count : Nat → Bytes, (∀ n, n < 2 ^ 32 → count n = le32 (BitVec.ofNat 32 n)) ∧ (∀ n, (count n).length = 4) ∧
    ∀ s : State,
      encode .getPackets = [0x05] ∧
      (s.iq = [] → exec .getPackets s = .next { s with responses := s.responses ++ [[2]] }) ∧
      (s.iq ≠ [] →
        exec .getPackets s = .next { s with iq := [], responses := s.responses ++
          [0 :: count s.iq.length ++ s.iq.flatMap fun p =>
            addrBytes p.sender ++ encodeHeader p.hdr ++ count p.payload.length ++ p.payload] })

/-- 30_encoding R97 (a clause it derives): the header of an accepted datagram encodes to the seven bytes received. -/
def Obligations.RecordReproducesReceivedHeader : Prop :=
  ∀ (d : Bytes) (h : Header) (p : Bytes), parseDatagram d = some (h, p) →
    encodeHeader h = d.take 7 ∧ p = (d.drop 7).take h.payloadLength.toNat ∧ p.length = h.payloadLength.toNat ∧
      validity h = true

/-! ### Frames

That a frame is an instruction whose meaning is one receive cycle (answered like a RECV, with WOULD_BLOCK after the frame) is the
model's choice (log 8); what the cycle does is the spec's. -/

/-- 40_header_codec R122 and R125 (frames: log 8): a frame of any kind with `more_frag` set and no reference, or with
fewer payload bytes than it declares, and a PUSH that declares none, is dropped; the cycle goes on. -/
def Obligations.InvalidFramesAreDropped : Prop :=
  ∀ (s t : State) (a : Addr) (f : FrameFields) (p : Bytes), s.status.init = true →
    (∀ d, t = { s with rs := evicted s.params s.env.now s.rs, sl := [],
                       calls := s.calls ++ rxCalls [(a, d)] .wouldBlock, responses := s.responses ++ [[0]] } →
      ((f.moreFrag = true ∧ f.fragRef = 0) ∨ p.length < f.payloadLength.toNat →
        (d = frameBytes .push f p → exec (.pushFrame a f p) s = .next t) ∧
        (d = frameBytes .connect f p → exec (.connectFrame a f p) s = .next t) ∧
        (d = frameBytes .ack f p → exec (.ackFrame a f p) s = .next t) ∧
        (d = frameBytes .disconnect f p → exec (.disconnectFrame a f p) s = .next t)) ∧
      (f.payloadLength = 0 → d = frameBytes .push f p → exec (.pushFrame a f p) s = .next t))

/-- 42_registry R186 (frames: log 8): an unfragmented PUSH frame with its payload present is delivered to S.IQ, or
dropped when the queue is full; the registry does not change and does not filter (R193). -/
def Obligations.PushFrameIsDelivered : Prop :=
  ∀ (s : State) (a : Addr) (f : FrameFields) (p : Bytes), s.status.init = true →
    f.fragRef = 0 → f.moreFrag = false → f.payloadLength ≠ 0 → f.payloadLength.toNat ≤ p.length →
    exec (.pushFrame a f p) s = .next
      { s with
          iq := if s.iq.length = s.params.iqCap then s.iq
            else s.iq ++ [{ sender := a, hdr := f.header .push, payload := p.take f.payloadLength.toNat }]
          rs := evicted s.params s.env.now s.rs
          sl := []
          calls := s.calls ++ rxCalls [(a, frameBytes .push f p)] .wouldBlock
          responses := s.responses ++ [[0]] }

/-- 42_registry R187 (frames: log 8): an unfragmented CONNECT frame upserts its sender in S.SUB, and no reply is sent.
-/
def Obligations.ConnectFrameSubscribes : Prop :=
  ∀ (s : State) (a : Addr) (f : FrameFields) (p : Bytes), s.status.init = true →
    f.fragRef = 0 → f.moreFrag = false → f.payloadLength.toNat ≤ p.length →
    exec (.connectFrame a f p) s = .next
      { s with
          sub := upsert a f.type s.sub
          rs := evicted s.params s.env.now s.rs
          sl := []
          calls := s.calls ++ rxCalls [(a, frameBytes .connect f p)] .wouldBlock
          responses := s.responses ++ [[0]] }

/-- 42_registry R188 (frames: log 8): an unfragmented ACK frame removes its sender from S.PEND and upserts it in
S.PUB. -/
def Obligations.AckFrameConfirms : Prop :=
  ∀ (s : State) (a : Addr) (f : FrameFields) (p : Bytes), s.status.init = true →
    f.fragRef = 0 → f.moreFrag = false → f.payloadLength.toNat ≤ p.length →
    exec (.ackFrame a f p) s = .next
      { s with
          pend := removePend a s.pend
          pub := upsert a f.type s.pub
          rs := evicted s.params s.env.now s.rs
          sl := []
          calls := s.calls ++ rxCalls [(a, frameBytes .ack f p)] .wouldBlock
          responses := s.responses ++ [[0]] }

/-- 42_registry R189 (frames: log 8): an unfragmented DISCONNECT frame removes its sender from S.PUB and S.SUB; S.PEND
stays. -/
def Obligations.DisconnectFrameRemoves : Prop :=
  ∀ (s : State) (a : Addr) (f : FrameFields) (p : Bytes), s.status.init = true →
    f.fragRef = 0 → f.moreFrag = false → f.payloadLength.toNat ≤ p.length →
    exec (.disconnectFrame a f p) s = .next
      { s with
          pub := removeEntry a s.pub
          sub := removeEntry a s.sub
          rs := evicted s.params s.env.now s.rs
          sl := []
          calls := s.calls ++ rxCalls [(a, frameBytes .disconnect f p)] .wouldBlock
          responses := s.responses ++ [[0]] }

/-- 41_fragmentation R147 and 30_encoding R96 (frames: log 8): a one-fragment message (a reference, no more fragments,
index 0) that finds no group of its reference and a free slot is complete at once and does what the unfragmented frame
does; the slot it went through is free again. -/
def Obligations.OneFragmentMessageCompletesAtOnce : Prop :=
  ∀ (s : State) (a : Addr) (f : FrameFields) (p : Bytes) (kind : Req) (j : Nat), s.status.init = true →
    1 ≤ s.params.groupMax → f.fragRef ≠ 0 → f.moreFrag = false → f.fragIndex = 0 →
    (kind = .push → f.payloadLength ≠ 0) → f.payloadLength.toNat ≤ p.length →
    findGroup s.rs f.fragRef = none → freeSlot s.rs = some j →
    ∃ t rs, exec (frameInstr kind a f p) s = .next t ∧
      (∀ i, i ≠ j → rs[i]? = s.rs[i]?) ∧ (∀ g ∈ rs[j]?, g.valid = false ∧ g.members = []) ∧
      t = { applyPacket s { sender := a, hdr := f.header kind, payload := p.take f.payloadLength.toNat } with
              rs := evicted s.params s.env.now rs
              sl := []
              calls := s.calls ++ rxCalls [(a, frameBytes kind f p)] .wouldBlock
              responses := s.responses ++ [[0]] }

/-- 30_encoding R96 and 43_host_commands R205 (frames: log 8): a frame of any kind that carries a reference is a
receive cycle over the one member it is: it goes through the engine, and what that completes through the registry
pass. -/
def Obligations.FragmentFramesAreRouted : Prop :=
  ∀ (s s1 s2 : State) (a : Addr) (f : FrameFields) (p : Bytes) (kind : Req), s.status.init = true →
    f.fragRef ≠ 0 → (kind = .push → f.payloadLength ≠ 0) → f.payloadLength.toNat ≤ p.length →
    s1 = processFrag { sender := a, hdr := f.header kind, payload := p.take f.payloadLength.toNat } s.env.now
      { s with sl := [] } →
    s2 = s1.sl.foldl applyPacket s →
    exec (frameInstr kind a f p) s = .next
      { s with rs := evicted s.params s.env.now s1.rs, iq := s2.iq, sub := s2.sub, pub := s2.pub, pend := s2.pend,
               sl := [], calls := s.calls ++ rxCalls [(a, frameBytes kind f p)] .wouldBlock,
               responses := s.responses ++ [[0]] }

/-! ### The registry -/

/-- 42_registry R180, R181: Find is the comparison of IP and port over the valid entries. -/
def Obligations.FindComparesAddresses : Prop :=
  (∀ (T : List Entry) (a : Addr) (i : Nat), (validAddrs T).Nodup →
      (findEntry T a = some i ↔
        ∃ e, T[i]? = some e ∧ e.valid = true ∧ e.addr.ip = a.ip ∧ e.addr.port = a.port)) ∧
    ∀ (T : List PendEntry) (a : Addr) (i : Nat), (pendAddrs T).Nodup →
      (findPend T a = some i ↔
        ∃ e, T[i]? = some e ∧ e.valid = true ∧ e.addr.ip = a.ip ∧ e.addr.port = a.port)

/-- 42_registry R182: Upsert, its three branches. -/
def Obligations.UpsertUpdatesInsertsOrDrops : Prop :=
  ∀ (T : List Entry) (a : Addr) (ty : NodeType), (validAddrs T).Nodup →
    (∀ i e, T[i]? = some e → e.valid = true → e.addr = a → upsert a ty T = T.set i { e with type := ty }) ∧
    (a ∉ validAddrs T → (∀ e ∈ T, e.valid = true) → upsert a ty T = T) ∧
    (a ∉ validAddrs T → ∀ j e, T[j]? = some e → e.valid = false →
      (∀ i e', i < j → T[i]? = some e' → e'.valid = true) →
      upsert a ty T = T.set j { valid := true, addr := a, type := ty })

/-- 42_registry section 1 (PendInsert, R183), its three branches. -/
def Obligations.PendInsertKeepsInsertsOrDrops : Prop :=
  ∀ (T : List PendEntry) (a : Addr),
    (a ∈ pendAddrs T → pendInsert a T = T) ∧
    (a ∉ pendAddrs T → (∀ e ∈ T, e.valid = true) → pendInsert a T = T) ∧
    (a ∉ pendAddrs T → ∀ j e, T[j]? = some e → e.valid = false →
      (∀ i e', i < j → T[i]? = some e' → e'.valid = true) →
      pendInsert a T = T.set j { valid := true, addr := a })

/-- 42_registry R184: Remove, for any of the three tables. -/
def Obligations.RemoveClearsValid : Prop :=
  (∀ (T : List Entry) (a : Addr), (validAddrs T).Nodup →
      (∀ i e, T[i]? = some e → e.valid = true → e.addr = a → removeEntry a T = T.set i { e with valid := false }) ∧
      (a ∉ validAddrs T → removeEntry a T = T)) ∧
    ∀ (T : List PendEntry) (a : Addr), (pendAddrs T).Nodup →
      (∀ i e, T[i]? = some e → e.valid = true → e.addr = a → removePend a T = T.set i { e with valid := false }) ∧
      (a ∉ pendAddrs T → removePend a T = T)

/-- 42_registry R195: of the packets, only a DISCONNECT from the peer takes it out of S.SUB or S.PUB, and only an ACK
from it takes it out of S.PEND. -/
def Obligations.PeersLeaveOnlyByTheirOwnFrames : Prop :=
  ∀ (s : State) (pkt : Packet) (a : Addr),
    (a ∈ validAddrs s.sub → a ∉ validAddrs (applyPacket s pkt).sub → pkt.hdr.req = .disconnect ∧ pkt.sender = a) ∧
    (a ∈ validAddrs s.pub → a ∉ validAddrs (applyPacket s pkt).pub → pkt.hdr.req = .disconnect ∧ pkt.sender = a) ∧
    (a ∈ pendAddrs s.pend → a ∉ pendAddrs (applyPacket s pkt).pend → pkt.hdr.req = .ack ∧ pkt.sender = a)

/-! ### The fragmentation engine -/

/-- 41_fragmentation R140: NextRef never returns 0, steps by one otherwise, and 255 successive calls from any start
return each of 1 to 255 exactly once. -/
def Obligations.ReferencesCycleWithoutZero : Prop :=
  (∀ c : Byte, nextRef c ≠ 0) ∧ (∀ c : Byte, c ≠ 255 → nextRef c = c + 1) ∧ nextRef 255 = 1 ∧
    ∀ c r : Byte, r ≠ 0 → ∃ n, (1 ≤ n ∧ n ≤ 255 ∧ nextRef^[n] c = r) ∧
      ∀ m, 1 ≤ m → m ≤ 255 → nextRef^[m] c = r → m = n

/-- 41_fragmentation R142: FragCount is the least number of FRAG_SIZE chunks that hold the payload, and a payload of
more than 256 × FRAG_SIZE bytes is refused with MESSAGE_TOO_LONG before any state changes. -/
def Obligations.FragCountIsCeiling : Prop :=
  (∀ (p : Params) (n : Nat), p.Legal → n ≤ fragCount p n * p.fragSize ∧
      (∀ k, n ≤ k * p.fragSize → fragCount p n ≤ k) ∧ (256 < fragCount p n ↔ 256 * p.fragSize < n)) ∧
    (∀ p : Params, p.Legal → fragCount p 0 = 0) ∧
    ∀ (s : State) (a : Addr) (b : Bytes), s.params.Legal → s.status.init = true → 256 * s.params.fragSize < b.length →
      exec (.send b) s = .next { s with responses := s.responses ++ [[10]] } ∧
        exec (.sendTo a b) s = .next { s with responses := s.responses ++ [[10]] }

/-- 41_fragmentation R141: PrepareFrag, for every payload that is not too long. -/
def Obligations.PrepareFragSplitsPayload : Prop :=
  ∀ (s : State) (b : Bytes) (frames : List Bytes) (s' : State), s.params.Legal →
    b.length ≤ 256 * s.params.fragSize → prepareFrag b s = (frames, s') →
    (b = [] → frames = [] ∧ s' = s) ∧
    (b ≠ [] →
      s' = { s with fragCtr := nextRef s.fragCtr } ∧ frames.length = fragCount s.params b.length ∧
      ∃ chunks : List Bytes, chunks.length = frames.length ∧ chunks.flatten = b ∧
        ∀ i c, chunks[i]? = some c →
          (i + 1 < frames.length → c.length = s.params.fragSize) ∧ 1 ≤ c.length ∧ c.length ≤ s.params.fragSize ∧
          ∃ h : Header, frames[i]? = some (encodeHeader h ++ c) ∧
            h.type = s.cfg.type ∧ h.req = .push ∧ (h.moreFrag = true ↔ i + 1 < frames.length) ∧ h.pad = 0b101 ∧
            h.payloadLength.toNat = c.length ∧ h.fragIndex.toNat = i ∧ h.fragRef = nextRef s.fragCtr ∧
            h.protocolVersion = s.cfg.version ∧ parseDatagram (encodeHeader h ++ c) = some (h, c))

/-- 41_fragmentation section 2 (R144): a fragment that finds no group of its reference opens one in the lowest free
slot, with its time stamp, when it does not complete a message by itself; with no free slot it is dropped. -/
def Obligations.FragmentOpensGroup : Prop :=
  ∀ (s : State) (m : Member) (t : U32), 1 ≤ s.params.groupMax →
    (∀ g ∈ s.rs, g.valid = true → g.key ≠ m.hdr.fragRef) →
    ((∀ g ∈ s.rs, g.valid = true) → processFrag m t s = s) ∧
    ∀ j g, s.rs[j]? = some g → g.valid = false → (∀ i g', i < j → s.rs[i]? = some g' → g'.valid = true) →
      (m.hdr.moreFrag = true ∨ m.hdr.fragIndex ≠ 0) →
      processFrag m t s =
        { s with rs := s.rs.set j { valid := true, key := m.hdr.fragRef, ts := t, members := [m] } }

/-- 41_fragmentation section 2 (R145, R147, R150): a fragment of a group that is not stale is appended and refreshes
the stamp when the group is not full and it does not complete it; a full group drops it and keeps its stamp. -/
def Obligations.FragmentJoinsGroup : Prop :=
  ∀ (s : State) (m : Member) (t : U32) (j : Nat) (g : Slot), (validKeys s.rs).Nodup →
    s.rs[j]? = some g → g.valid = true → g.key = m.hdr.fragRef →
    (t - g.ts).toNat ≤ s.params.staleMs.toNat →
    (g.members.length = s.params.groupMax → processFrag m t s = s) ∧
    (g.members.length ≠ s.params.groupMax →
      (∀ pre x post, g.members ++ [m] = pre ++ x :: post → x.hdr.moreFrag = false →
        (∀ y ∈ pre, y.hdr.moreFrag = true) → g.members.length + 1 ≠ x.hdr.fragIndex.toNat + 1) →
      processFrag m t s = { s with rs := s.rs.set j { g with ts := t, members := g.members ++ [m] } })

/-- 41_fragmentation section 2 (R146 to R149): the fragment with which the member count reaches the index of the first
terminal member plus one completes the group: the slot is free again, and S.SL gains one packet, with the sender and
the unchanged header of the last member of a stable sort by index, and the payloads joined in that order. -/
def Obligations.FragmentCompletesGroup : Prop :=
  ∀ (s : State) (m : Member) (t : U32) (j : Nat) (g : Slot) (pre post sorted : List Member) (x last : Member),
    (validKeys s.rs).Nodup → s.rs[j]? = some g → g.valid = true → g.key = m.hdr.fragRef →
    (t - g.ts).toNat ≤ s.params.staleMs.toNat → g.members.length ≠ s.params.groupMax →
    g.members ++ [m] = pre ++ x :: post → x.hdr.moreFrag = false → (∀ y ∈ pre, y.hdr.moreFrag = true) →
    g.members.length + 1 = x.hdr.fragIndex.toNat + 1 →
    sorted.Pairwise (fun a b => a.hdr.fragIndex.toNat ≤ b.hdr.fragIndex.toNat) →
    (∀ k : Byte, sorted.filter (fun a => a.hdr.fragIndex == k) =
      (g.members ++ [m]).filter fun a => a.hdr.fragIndex == k) →
    sorted.getLast? = some last →
    processFrag m t s =
      { s with rs := s.rs.set j { valid := false, key := g.key, ts := t, members := [] }
               sl := s.sl ++ [{ sender := last.sender, hdr := last.hdr, payload := sorted.flatMap (·.payload) }] }

/-- 41_fragmentation section 2 (R143) and 90_conflicts C3: a group found older than STALE_MS is discarded before the
fragment is considered, and the fragment is processed as if it had not been there. -/
def Obligations.StaleGroupIsDiscardedOnLookup : Prop :=
  ∀ (s : State) (m : Member) (t : U32) (j : Nat) (g : Slot), (validKeys s.rs).Nodup →
    s.rs[j]? = some g → g.valid = true → g.key = m.hdr.fragRef → s.params.staleMs.toNat < (t - g.ts).toNat →
    processFrag m t s = processFrag m t { s with rs := s.rs.set j { g with valid := false, members := [] } }

/-- 41_fragmentation R153, for arrivals with no other frame between them: the frames of one payload, fed to a receiver
in any order, each within STALE_MS of the one before, stage exactly one packet, at the last arrival, with the payload,
the terminal frame's header and its sender. -/
def Obligations.ReassemblyRestoresPayload : Prop :=
  ∀ (sndr rcvr : State) (b : Bytes) (src : Addr) (feed : List (Bytes × U32)) (u v : State),
    sndr.params.Legal → b ≠ [] → b.length ≤ 256 * sndr.params.fragSize →
    (feed.map Prod.fst).Perm (prepareFrag b sndr).1 →
    feed.IsChain (fun x y => (y.2 - x.2).toNat ≤ rcvr.params.staleMs.toNat) →
    (prepareFrag b sndr).1.length ≤ rcvr.params.groupMax →
    (∀ g ∈ rcvr.rs, g.valid = true → g.key ≠ nextRef sndr.fragCtr) → (∃ g ∈ rcvr.rs, g.valid = false) →
    u = feed.dropLast.foldl (fun w x => acceptDatagram x.2 w (src, x.1)) rcvr →
    v = feed.foldl (fun w x => acceptDatagram x.2 w (src, x.1)) rcvr →
    u.sl = rcvr.sl ∧
      ∃ h c, (prepareFrag b sndr).1.getLast? = some (encodeHeader h ++ c) ∧ h.moreFrag = false ∧
        v.sl = rcvr.sl ++ [{ sender := src, hdr := h, payload := b }] ∧
        ∀ g ∈ v.rs, g.valid = true → g.key ≠ nextRef sndr.fragCtr

/-! ### Transmission -/

/-- 43_host_commands R208: PUSH, whole. -/
def Obligations.PushAppendsOrRefuses : Prop :=
  ∀ (s : State) (b : Bytes),
    encode (.push b) = 0x06 :: le32 (BitVec.ofNat 32 b.length) ++ b ∧
    exec (.push b) s = .next
      (if s.params.obCap < s.ob.length + b.length then { s with responses := s.responses ++ [[11]] }
       else { s with ob := s.ob ++ b, responses := s.responses ++ [[0]] })

/-- 43_host_commands R209 (with R201, 20_memory R75): FLUSH, whole. It needs INIT; it drains the buffer, numbers the
batch, and sends it frame by frame to every subscriber in slot order, stopping at the first send that is not full. -/
def Obligations.FlushSendsBuffer : Prop :=
  ∀ (s : State) (sends : List (Addr × Bytes)), s.params.Legal →
    sends = ((prepareFrag s.ob s).1.flatMap fun f => (validAddrs s.sub).map fun a => (a, f)) →
    encode .flush = [0x07] ∧
    (s.status.init = false → exec .flush s = .next { s with responses := s.responses ++ [[9]] }) ∧
    (s.status.init = true →
      ∃ made code, BatchOutcome s.env sends made code ∧
        exec .flush s = .next
          { s with
              ob := []
              fragCtr := if s.ob = [] then s.fragCtr else nextRef s.fragCtr
              status := { s.status with needsReset := s.status.needsReset || code == .sendFailure }
              env := { s.env with tx := s.env.tx.drop made }
              calls := s.calls ++ txCalls s.env sends made
              responses := s.responses ++ [[code.byte]] })

/-- 43_host_commands R210 (with R201, 20_memory R75): SEND, whole. It does with its operand what FLUSH does with the
buffer, refuses an operand that needs more than 256 frames, and leaves S.OB alone. -/
def Obligations.SendSendsToSubscribers : Prop :=
  ∀ (s : State) (b : Bytes) (sends : List (Addr × Bytes)), s.params.Legal →
    sends = ((prepareFrag b s).1.flatMap fun f => (validAddrs s.sub).map fun a => (a, f)) →
    encode (.send b) = 0x08 :: le32 (BitVec.ofNat 32 b.length) ++ b ∧
    (s.status.init = false → exec (.send b) s = .next { s with responses := s.responses ++ [[9]] }) ∧
    (s.status.init = true → 256 * s.params.fragSize < b.length →
      exec (.send b) s = .next { s with responses := s.responses ++ [[10]] }) ∧
    (s.status.init = true → b.length ≤ 256 * s.params.fragSize →
      ∃ made code, BatchOutcome s.env sends made code ∧
        exec (.send b) s = .next
          { s with
              fragCtr := if b = [] then s.fragCtr else nextRef s.fragCtr
              status := { s.status with needsReset := s.status.needsReset || code == .sendFailure }
              env := { s.env with tx := s.env.tx.drop made }
              calls := s.calls ++ txCalls s.env sends made
              responses := s.responses ++ [[code.byte]] })

/-- 43_host_commands R211 (with R201): SEND_TO, whole. It sends the batch to one address, registered or not. -/
def Obligations.SendToSendsToOneAddress : Prop :=
  ∀ (s : State) (a : Addr) (b : Bytes) (sends : List (Addr × Bytes)), s.params.Legal →
    sends = ((prepareFrag b s).1.map fun f => (a, f)) →
    encode (.sendTo a b) = 0x09 :: addrBytes a ++ le32 (BitVec.ofNat 32 b.length) ++ b ∧
    (s.status.init = false → exec (.sendTo a b) s = .next { s with responses := s.responses ++ [[9]] }) ∧
    (s.status.init = true → 256 * s.params.fragSize < b.length →
      exec (.sendTo a b) s = .next { s with responses := s.responses ++ [[10]] }) ∧
    (s.status.init = true → b.length ≤ 256 * s.params.fragSize →
      ∃ made code, BatchOutcome s.env sends made code ∧
        exec (.sendTo a b) s = .next
          { s with
              fragCtr := if b = [] then s.fragCtr else nextRef s.fragCtr
              status := { s.status with needsReset := s.status.needsReset || code == .sendFailure }
              env := { s.env with tx := s.env.tx.drop made }
              calls := s.calls ++ txCalls s.env sends made
              responses := s.responses ++ [[code.byte]] })

/-- 43_host_commands R212: SEND_CTRL, whole. -/
def Obligations.SendCtrlSendsControlFrame : Prop :=
  ∀ (s : State) (r : Byte) (a : Addr),
    encode (.sendCtrl r a) = 0x0A :: r :: addrBytes a ∧
    (r = 0 ∨ 3 < r.toNat → exec (.sendCtrl r a) s = .next { s with responses := s.responses ++ [[12]] }) ∧
    (r ≠ 0 → r.toNat ≤ 3 → s.status.init = false →
      exec (.sendCtrl r a) s = .next { s with responses := s.responses ++ [[9]] }) ∧
    (r ≠ 0 → r.toNat ≤ 3 → s.status.init = true → ∀ answer, txAnswerAt s.env 0 = answer →
      exec (.sendCtrl r a) s = .next
        { s with
            pend := match answer with
              | .fail => s.pend
              | .wrote n => if r = 1 ∧ 7 ≤ n then pendInsert a s.pend else s.pend
            status := { s.status with needsReset := s.status.needsReset || answer == .fail }
            env := { s.env with tx := s.env.tx.drop 1 }
            calls := s.calls ++ [.txSend a (controlBytes (0xA0 ||| (r <<< 2)) s) answer]
            responses := s.responses ++ [[match answer with
              | .fail => 8
              | .wrote n => if n < 7 then 7 else 0]] })

/-! ### Rules about the whole machine -/

/-- 43_host_commands R200 step 5 and 60_exceptions R261 (frames: log 8): with INIT = 0 every command that needs the
socket, and every frame (the block does not poll), answers USE_BEFORE_INITIALIZED and changes nothing else. -/
def Obligations.SocketCommandsNeedInit : Prop :=
  ∀ (s : State) (i : Instr), s.status.init = false →
    (i = .shutdown ∨ i = .recv ∨ i = .flush ∨ (∃ b, i = .send b) ∨ (∃ a b, i = .sendTo a b) ∨
      (∃ r a, i = .sendCtrl r a ∧ r ≠ 0 ∧ r.toNat ≤ 3) ∨ ∃ a, i.sender? = some a) →
    exec i s = .next { s with responses := s.responses ++ [[9]] }

/-- 60_exceptions R262, first point: a command answered with a prologue code has changed nothing. -/
def Obligations.PrologueCodesChangeNothing : Prop :=
  ∀ (s t : State) (i : Instr) (c : Byte), exec i s = .next t → t.responses = s.responses ++ [[c]] →
    9 ≤ c.toNat → t = { s with responses := s.responses ++ [[c]] }

/-- 60_exceptions R264: the write discipline of NEEDS_RESET. A RESET that passes its prologue clears it; after any
other instruction it is set exactly if it was set or an RxPoll of the instruction answered ERROR or a TxSend of it
FAIL. -/
def Obligations.NeedsResetWriteDiscipline : Prop :=
  ∀ (s t : State) (i : Instr), exec i s = .next t →
    (∀ v p ty, i = .reset v p ty → t.status.needsReset = (decide (3 < ty.toNat) && s.status.needsReset)) ∧
    ((∀ v p ty, i ≠ .reset v p ty) →
      (t.status.needsReset = true ↔ s.status.needsReset = true ∨
        .rxPoll .error ∈ t.calls.drop s.calls.length ∨
        ∃ a f, .txSend a f .fail ∈ t.calls.drop s.calls.length))

/-- 10_state R23 to R34, the "written by" of every state field: which instructions leave it as it was. -/
def Obligations.OnlyTheirWritersChangeFields : Prop :=
  ∀ (s t : State) (i : Instr), exec i s = .next t →
    t.params = s.params ∧ t.host = s.host ∧
    ((∀ v p ty, i ≠ .init v p ty) → (∀ v p ty, i ≠ .reset v p ty) → t.cfg = s.cfg) ∧
    ((∀ v p ty, i ≠ .init v p ty) → (∀ v p ty, i ≠ .reset v p ty) → i ≠ .shutdown → t.status.init = s.status.init) ∧
    (i ≠ .flush → (∀ b, i ≠ .send b) → (∀ a b, i ≠ .sendTo a b) → t.fragCtr = s.fragCtr) ∧
    (t.fragCtr = s.fragCtr ∨ t.fragCtr = nextRef s.fragCtr) ∧
    ((∀ b, i ≠ .push b) → i ≠ .flush → t.ob = s.ob) ∧
    (i ≠ .recv → i.sender? = none → t.rs = s.rs ∧ t.sub = s.sub ∧ t.pub = s.pub ∧ t.sl = s.sl) ∧
    (i ≠ .recv → i.sender? = none → i ≠ .getPackets → t.iq = s.iq) ∧
    (i ≠ .recv → i.sender? = none → (∀ a, i ≠ .sendCtrl 1 a) → t.pend = s.pend)

/-- 30_encoding R86, R88 and 60_exceptions R260: whatever message the host port delivers, a step that goes on answers
it with exactly one response, whose code is one of 0 to 13 and stands alone unless it is SUCCESS; the driver calls
made are added after those made before, the rest of the host port and the parameters stay. -/
def Obligations.OneResponsePerMessage : Prop :=
  ∀ (s t : State) (message : Bytes) (answers : PortAnswers) (rest : List HostEvent),
    s.host = .command message answers :: rest → step s = .next t →
    (∃ (code : Byte) (results : Bytes), t.responses = s.responses ++ [code :: results] ∧ code.toNat ≤ 13 ∧
      (code ≠ 0 → results = [])) ∧
    (∃ made, t.calls = s.calls ++ made) ∧ t.host = rest ∧ t.params = s.params

/-- 10_state R37: what an invalid slot or entry holds is never read: states that differ only there stay so, and answer
and call the driver alike. -/
def Obligations.InvalidContentsAreNeverRead : Prop :=
  ∀ s t : State, s.params.Legal → s.Same t → SameOutcome (step s) (step t)

/-- 10_state R33: no step gives a table two valid entries with equal addresses. -/
def Obligations.StepKeepsRegistryUnique : Prop :=
  ∀ s t : State, s.RegistryInv → step s = .next t → t.RegistryInv

/-- 10_state R29: every step keeps the invariants of the reassembly store. -/
def Obligations.StepKeepsStoreInvariants : Prop :=
  ∀ s t : State, s.params.Legal → s.StoreInv → step s = .next t → t.StoreInv

/-- 10_state R26 to R34, 30_encoding R97: every step keeps all the invariants at once: sizes, uniqueness, the store,
the capacities, the empty staging list, and valid headers in the queue and the groups. -/
def Obligations.StepKeepsInvariant : Prop :=
  ∀ s t : State, s.Inv → step s = .next t → t.Inv

/-- The invariants hold after power-on reset, for every legal choice of parameters and for those of `State.reset`. -/
def Obligations.ResetMeetsInvariant : Prop :=
  (∀ p : Params, p.Legal → (State.resetWith p).Inv) ∧ State.reset.Inv
end

