-- ==== Sys2Proof/Laws/Codec.lean ====
section
/-! SUPPORT. Byte order: the bytes of a value read back, and the value of bytes gives the bytes (20_memory R60 to R63); and
what ParseDatagram and the frame decoder accept. -/
namespace Sys2Proof

@[simp] theorem rd16_byteOf (v : U16) : rd16 (byteOf v 0) (byteOf v 1) = v := by
  apply BitVec.eq_of_getLsbD_eq
  intro i hi
  simp only [rd16, BitVec.getLsbD_append, byteOf, BitVec.getLsbD_extractLsb']
  grind

@[simp] theorem byteOf_rd16_zero (a b : Byte) : byteOf (rd16 a b) 0 = a := by
  apply BitVec.eq_of_getLsbD_eq
  intro i hi
  simp only [rd16, BitVec.getLsbD_append, byteOf, BitVec.getLsbD_extractLsb']
  grind

@[simp] theorem byteOf_rd16_one (a b : Byte) : byteOf (rd16 a b) 1 = b := by
  apply BitVec.eq_of_getLsbD_eq
  intro i hi
  simp only [rd16, BitVec.getLsbD_append, byteOf, BitVec.getLsbD_extractLsb']
  grind

@[simp] theorem rd32_byteOf (v : U32) : rd32 (byteOf v 0) (byteOf v 1) (byteOf v 2) (byteOf v 3) = v := by
  apply BitVec.eq_of_getLsbD_eq
  intro i hi
  simp only [rd32, BitVec.getLsbD_append, byteOf, BitVec.getLsbD_extractLsb']
  grind

theorem byteOf_rd32 (a b c d : Byte) :
    byteOf (rd32 a b c d) 0 = a ∧ byteOf (rd32 a b c d) 1 = b ∧ byteOf (rd32 a b c d) 2 = c ∧
      byteOf (rd32 a b c d) 3 = d := by
  refine ⟨?_, ?_, ?_, ?_⟩ <;>
  · apply BitVec.eq_of_getLsbD_eq
    intro i hi
    simp only [rd32, BitVec.getLsbD_append, byteOf, BitVec.getLsbD_extractLsb']
    grind

@[simp] theorem le16_rd16 (a b : Byte) : le16 (rd16 a b) = [a, b] := by simp [le16]

@[simp] theorem le32_rd32 (a b c d : Byte) : le32 (rd32 a b c d) = [a, b, c, d] := by simp [le32, byteOf_rd32]

@[simp] theorem addrBytes_rdAddr (a b c d p q : Byte) : addrBytes (rdAddr a b c d p q) = [a, b, c, d, p, q] := by
  simp [addrBytes, rdAddr, byteOf_rd32]

@[simp] theorem rdAddr_addrBytes (a : Addr) :
    rdAddr (byteOf a.ip 3) (byteOf a.ip 2) (byteOf a.ip 1) (byteOf a.ip 0) (byteOf a.port 0) (byteOf a.port 1) = a := by
  simp [rdAddr]

@[simp] theorem NodeType.ofBits_bits (t : NodeType) : NodeType.ofBits t.bits = t := by cases t <;> rfl

@[simp] theorem NodeType.bits_ofBits (b : BitVec 2) : (NodeType.ofBits b).bits = b := by revert b; decide

@[simp] theorem Req.ofBits_bits (r : Req) : Req.ofBits r.bits = r := by cases r <;> rfl

@[simp] theorem Req.bits_ofBits (b : BitVec 2) : (Req.ofBits b).bits = b := by revert b; decide

@[simp] theorem encodeHeader_length (h : Header) : (encodeHeader h).length = 7 := rfl

/-- A datagram of at least seven bytes is its header bytes and the rest, and `splitHeader` finds them. -/
theorem splitHeader_eq_some {d : Bytes} {b : Hdr7} {rest : Bytes} :
    splitHeader d = some (b, rest) ↔ d = hdr7Bytes b ++ rest := by
  unfold splitHeader
  split
  · simp only [Option.some.injEq, Prod.mk.injEq, hdr7Bytes, List.cons_append, List.nil_append]
    constructor
    · rintro ⟨rfl, rfl⟩; rfl
    · intro h; cases h; exact ⟨rfl, rfl⟩
  · rename_i h
    simp only [reduceCtorEq, false_iff]
    rintro rfl
    exact h _ _ _ _ _ _ _ _ rfl

/-- What ParseDatagram accepts (40_header_codec R125). -/
theorem parseDatagram_eq_some {d : Bytes} {h : Header} {p : Bytes} :
    parseDatagram d = some (h, p) ↔
      ∃ b rest, d = hdr7Bytes b ++ rest ∧ h = decodeHeader b ∧ validity h = true ∧
        h.payloadLength.toNat ≤ rest.length ∧ p = rest.take h.payloadLength.toNat := by
  unfold parseDatagram
  cases hs : splitHeader d with
  | none =>
    simp only [reduceCtorEq, false_iff]
    rintro ⟨b, rest, hd, -⟩
    rw [splitHeader_eq_some.2 hd] at hs
    cases hs
  | some br =>
    obtain ⟨b, rest⟩ := br
    have hd := splitHeader_eq_some.1 hs
    constructor
    · intro hp
      refine ⟨b, rest, hd, ?_⟩
      grind
    · rintro ⟨b', rest', hd', rfl, hv, hl, rfl⟩
      have := splitHeader_eq_some.2 hd'
      rw [hs] at this
      grind

end Sys2Proof
end

