-- ==== Sys2Proof/Laws/Frag.lean ====
section
/-! SUPPORT. The keys of the valid group slots under each kind of write the engine makes (41_fragmentation R143 to R149). -/
namespace Sys2Proof.Machine

/-- Giving a group up takes at most one key away. -/
theorem validKeys_release (rs : List Slot) (i : Nat) :
    (validKeys (rs.modify i Slot.release)).Sublist (validKeys rs) := by
  induction rs generalizing i with
  | nil => cases i <;> exact List.Sublist.refl _
  | cons e T ih =>
    cases i with
    | zero => rw [List.modify_zero_cons]; by_cases hx : e.valid = true <;> simp [validKeys, hx, Slot.release]
    | succ i =>
      have := ih i; simp [validKeys, List.filter_cons] at *; split
      · simp; exact this
      · exact this

/-- Replacing a slot by one with the same valid bit and key leaves the keys. -/
theorem validKeys_set_same (rs : List Slot) (i : Nat) (g g' : Slot) (hg : rs[i]? = some g)
    (hv : g'.valid = g.valid) (hk : g'.key = g.key) : validKeys (rs.set i g') = validKeys rs := by
  induction rs generalizing i with
  | nil => rfl
  | cons x T ih =>
    cases i with
    | zero => simp at hg; subst hg; by_cases hx : x.valid = true <;> simp [validKeys, hv, hk, hx]
    | succ i => have := ih i (by simpa using hg); simp [validKeys, List.filter_cons] at *; split <;> simp_all

/-- Replacing a slot by an invalid one takes at most one key away. -/
theorem validKeys_set_invalid (rs : List Slot) (i : Nat) (g' : Slot) (hv : g'.valid = false) :
    (validKeys (rs.set i g')).Sublist (validKeys rs) := by
  induction rs generalizing i with
  | nil => cases i <;> exact List.Sublist.refl _
  | cons e T ih =>
    cases i with
    | zero => by_cases hx : e.valid = true <;> simp [validKeys, hx, hv]
    | succ i =>
      have := ih i; simp [validKeys, List.filter_cons] at *; split
      · simp; exact this
      · exact this

/-- Opening a group in an invalid slot adds its key. -/
theorem validKeys_insert (rs : List Slot) (j : Nat) (g g' : Slot) (hj : rs[j]? = some g) (he : g.valid = false)
    (hv : g'.valid = true) : (validKeys (rs.set j g')).Perm (g'.key :: validKeys rs) := by
  induction rs generalizing j with
  | nil => simp at hj
  | cons x T ih =>
    cases j with
    | zero => simp at hj; subst hj; simp [validKeys, he, hv]
    | succ j =>
      have := ih j (by simpa using hj)
      simp only [List.set_cons_succ, validKeys, List.filter_cons] at *; split
      · simp; exact (this.cons _).trans (List.Perm.swap _ _ _)
      · exact this

/-- Lookup fails exactly for a key no valid slot has (41_fragmentation R143). -/
theorem findGroup_none (rs : List Slot) (k : Byte) : findGroup rs k = none ↔ k ∉ validKeys rs := by
  simp [findGroup, List.findIdx?_eq_none_iff, validKeys]

/-- The sorted members are the members (41_fragmentation R148). -/
theorem sortByIndex_perm (l : List Member) : (sortByIndex l).Perm l := List.perm_insertionSort _ _

end Sys2Proof.Machine
end

