-- ==== Sys2Proof/Laws/State.lean ====
section
/-! SUPPORT. What each update of the state leaves in each field it is asked about: one lemma per update and field, by
rfl, so that later proofs rewrite instead of unfolding. -/
namespace Sys2Proof.Machine
variable (s : State)

@[simp] theorem State.setInit_params : (s.setInit).params = s.params := rfl
@[simp] theorem State.setInit_cfg : (s.setInit).cfg = s.cfg := rfl
@[simp] theorem State.setInit_status : (s.setInit).status = { s.status with init := true } := rfl
@[simp] theorem State.setInit_fragCtr : (s.setInit).fragCtr = s.fragCtr := rfl
@[simp] theorem State.setInit_ob : (s.setInit).ob = s.ob := rfl
@[simp] theorem State.setInit_iq : (s.setInit).iq = s.iq := rfl
@[simp] theorem State.setInit_rs : (s.setInit).rs = s.rs := rfl
@[simp] theorem State.setInit_sub : (s.setInit).sub = s.sub := rfl
@[simp] theorem State.setInit_pub : (s.setInit).pub = s.pub := rfl
@[simp] theorem State.setInit_pend : (s.setInit).pend = s.pend := rfl
@[simp] theorem State.setInit_sl : (s.setInit).sl = s.sl := rfl
@[simp] theorem State.setInit_host : (s.setInit).host = s.host := rfl
@[simp] theorem State.setInit_env : (s.setInit).env = s.env := rfl
@[simp] theorem State.setInit_responses : (s.setInit).responses = s.responses := rfl
@[simp] theorem State.setInit_calls : (s.setInit).calls = s.calls := rfl

@[simp] theorem State.clearInit_params : (s.clearInit).params = s.params := rfl
@[simp] theorem State.clearInit_cfg : (s.clearInit).cfg = s.cfg := rfl
@[simp] theorem State.clearInit_status : (s.clearInit).status = { s.status with init := false } := rfl
@[simp] theorem State.clearInit_fragCtr : (s.clearInit).fragCtr = s.fragCtr := rfl
@[simp] theorem State.clearInit_ob : (s.clearInit).ob = s.ob := rfl
@[simp] theorem State.clearInit_iq : (s.clearInit).iq = s.iq := rfl
@[simp] theorem State.clearInit_rs : (s.clearInit).rs = s.rs := rfl
@[simp] theorem State.clearInit_sub : (s.clearInit).sub = s.sub := rfl
@[simp] theorem State.clearInit_pub : (s.clearInit).pub = s.pub := rfl
@[simp] theorem State.clearInit_pend : (s.clearInit).pend = s.pend := rfl
@[simp] theorem State.clearInit_sl : (s.clearInit).sl = s.sl := rfl
@[simp] theorem State.clearInit_host : (s.clearInit).host = s.host := rfl
@[simp] theorem State.clearInit_env : (s.clearInit).env = s.env := rfl
@[simp] theorem State.clearInit_responses : (s.clearInit).responses = s.responses := rfl
@[simp] theorem State.clearInit_calls : (s.clearInit).calls = s.calls := rfl

@[simp] theorem State.setNeedsReset_params : (s.setNeedsReset).params = s.params := rfl
@[simp] theorem State.setNeedsReset_cfg : (s.setNeedsReset).cfg = s.cfg := rfl
@[simp] theorem State.setNeedsReset_status : (s.setNeedsReset).status = { s.status with needsReset := true } := rfl
@[simp] theorem State.setNeedsReset_fragCtr : (s.setNeedsReset).fragCtr = s.fragCtr := rfl
@[simp] theorem State.setNeedsReset_ob : (s.setNeedsReset).ob = s.ob := rfl
@[simp] theorem State.setNeedsReset_iq : (s.setNeedsReset).iq = s.iq := rfl
@[simp] theorem State.setNeedsReset_rs : (s.setNeedsReset).rs = s.rs := rfl
@[simp] theorem State.setNeedsReset_sub : (s.setNeedsReset).sub = s.sub := rfl
@[simp] theorem State.setNeedsReset_pub : (s.setNeedsReset).pub = s.pub := rfl
@[simp] theorem State.setNeedsReset_pend : (s.setNeedsReset).pend = s.pend := rfl
@[simp] theorem State.setNeedsReset_sl : (s.setNeedsReset).sl = s.sl := rfl
@[simp] theorem State.setNeedsReset_host : (s.setNeedsReset).host = s.host := rfl
@[simp] theorem State.setNeedsReset_env : (s.setNeedsReset).env = s.env := rfl
@[simp] theorem State.setNeedsReset_responses : (s.setNeedsReset).responses = s.responses := rfl
@[simp] theorem State.setNeedsReset_calls : (s.setNeedsReset).calls = s.calls := rfl

@[simp] theorem State.clearNeedsReset_params : (s.clearNeedsReset).params = s.params := rfl
@[simp] theorem State.clearNeedsReset_cfg : (s.clearNeedsReset).cfg = s.cfg := rfl
@[simp] theorem State.clearNeedsReset_status : (s.clearNeedsReset).status = { s.status with needsReset := false } := rfl
@[simp] theorem State.clearNeedsReset_fragCtr : (s.clearNeedsReset).fragCtr = s.fragCtr := rfl
@[simp] theorem State.clearNeedsReset_ob : (s.clearNeedsReset).ob = s.ob := rfl
@[simp] theorem State.clearNeedsReset_iq : (s.clearNeedsReset).iq = s.iq := rfl
@[simp] theorem State.clearNeedsReset_rs : (s.clearNeedsReset).rs = s.rs := rfl
@[simp] theorem State.clearNeedsReset_sub : (s.clearNeedsReset).sub = s.sub := rfl
@[simp] theorem State.clearNeedsReset_pub : (s.clearNeedsReset).pub = s.pub := rfl
@[simp] theorem State.clearNeedsReset_pend : (s.clearNeedsReset).pend = s.pend := rfl
@[simp] theorem State.clearNeedsReset_sl : (s.clearNeedsReset).sl = s.sl := rfl
@[simp] theorem State.clearNeedsReset_host : (s.clearNeedsReset).host = s.host := rfl
@[simp] theorem State.clearNeedsReset_env : (s.clearNeedsReset).env = s.env := rfl
@[simp] theorem State.clearNeedsReset_responses : (s.clearNeedsReset).responses = s.responses := rfl
@[simp] theorem State.clearNeedsReset_calls : (s.clearNeedsReset).calls = s.calls := rfl

@[simp] theorem State.reply_params (c : ResultCode) : (s.reply c).params = s.params := rfl
@[simp] theorem State.reply_cfg (c : ResultCode) : (s.reply c).cfg = s.cfg := rfl
@[simp] theorem State.reply_status (c : ResultCode) : (s.reply c).status = s.status := rfl
@[simp] theorem State.reply_fragCtr (c : ResultCode) : (s.reply c).fragCtr = s.fragCtr := rfl
@[simp] theorem State.reply_ob (c : ResultCode) : (s.reply c).ob = s.ob := rfl
@[simp] theorem State.reply_iq (c : ResultCode) : (s.reply c).iq = s.iq := rfl
@[simp] theorem State.reply_rs (c : ResultCode) : (s.reply c).rs = s.rs := rfl
@[simp] theorem State.reply_sub (c : ResultCode) : (s.reply c).sub = s.sub := rfl
@[simp] theorem State.reply_pub (c : ResultCode) : (s.reply c).pub = s.pub := rfl
@[simp] theorem State.reply_pend (c : ResultCode) : (s.reply c).pend = s.pend := rfl
@[simp] theorem State.reply_sl (c : ResultCode) : (s.reply c).sl = s.sl := rfl
@[simp] theorem State.reply_host (c : ResultCode) : (s.reply c).host = s.host := rfl
@[simp] theorem State.reply_env (c : ResultCode) : (s.reply c).env = s.env := rfl
@[simp] theorem State.reply_responses (c : ResultCode) : (s.reply c).responses = s.responses ++ [[c.byte]] := rfl
@[simp] theorem State.reply_calls (c : ResultCode) : (s.reply c).calls = s.calls := rfl

@[simp] theorem State.replyWith_params (b : Bytes) : (s.replyWith b).params = s.params := rfl
@[simp] theorem State.replyWith_cfg (b : Bytes) : (s.replyWith b).cfg = s.cfg := rfl
@[simp] theorem State.replyWith_status (b : Bytes) : (s.replyWith b).status = s.status := rfl
@[simp] theorem State.replyWith_fragCtr (b : Bytes) : (s.replyWith b).fragCtr = s.fragCtr := rfl
@[simp] theorem State.replyWith_ob (b : Bytes) : (s.replyWith b).ob = s.ob := rfl
@[simp] theorem State.replyWith_iq (b : Bytes) : (s.replyWith b).iq = s.iq := rfl
@[simp] theorem State.replyWith_rs (b : Bytes) : (s.replyWith b).rs = s.rs := rfl
@[simp] theorem State.replyWith_sub (b : Bytes) : (s.replyWith b).sub = s.sub := rfl
@[simp] theorem State.replyWith_pub (b : Bytes) : (s.replyWith b).pub = s.pub := rfl
@[simp] theorem State.replyWith_pend (b : Bytes) : (s.replyWith b).pend = s.pend := rfl
@[simp] theorem State.replyWith_sl (b : Bytes) : (s.replyWith b).sl = s.sl := rfl
@[simp] theorem State.replyWith_host (b : Bytes) : (s.replyWith b).host = s.host := rfl
@[simp] theorem State.replyWith_env (b : Bytes) : (s.replyWith b).env = s.env := rfl
@[simp] theorem State.replyWith_responses (b : Bytes) : (s.replyWith b).responses = s.responses ++ [ResultCode.success.byte :: b] := rfl
@[simp] theorem State.replyWith_calls (b : Bytes) : (s.replyWith b).calls = s.calls := rfl

@[simp] theorem State.logCall_params (c : DriverCall) : (s.logCall c).params = s.params := rfl
@[simp] theorem State.logCall_cfg (c : DriverCall) : (s.logCall c).cfg = s.cfg := rfl
@[simp] theorem State.logCall_status (c : DriverCall) : (s.logCall c).status = s.status := rfl
@[simp] theorem State.logCall_fragCtr (c : DriverCall) : (s.logCall c).fragCtr = s.fragCtr := rfl
@[simp] theorem State.logCall_ob (c : DriverCall) : (s.logCall c).ob = s.ob := rfl
@[simp] theorem State.logCall_iq (c : DriverCall) : (s.logCall c).iq = s.iq := rfl
@[simp] theorem State.logCall_rs (c : DriverCall) : (s.logCall c).rs = s.rs := rfl
@[simp] theorem State.logCall_sub (c : DriverCall) : (s.logCall c).sub = s.sub := rfl
@[simp] theorem State.logCall_pub (c : DriverCall) : (s.logCall c).pub = s.pub := rfl
@[simp] theorem State.logCall_pend (c : DriverCall) : (s.logCall c).pend = s.pend := rfl
@[simp] theorem State.logCall_sl (c : DriverCall) : (s.logCall c).sl = s.sl := rfl
@[simp] theorem State.logCall_host (c : DriverCall) : (s.logCall c).host = s.host := rfl
@[simp] theorem State.logCall_env (c : DriverCall) : (s.logCall c).env = s.env := rfl
@[simp] theorem State.logCall_responses (c : DriverCall) : (s.logCall c).responses = s.responses := rfl
@[simp] theorem State.logCall_calls (c : DriverCall) : (s.logCall c).calls = s.calls ++ [c] := rfl

@[simp] theorem State.loadCommand_params (e : PortAnswers) (r : List HostEvent) : (s.loadCommand e r).params = s.params := rfl
@[simp] theorem State.loadCommand_cfg (e : PortAnswers) (r : List HostEvent) : (s.loadCommand e r).cfg = s.cfg := rfl
@[simp] theorem State.loadCommand_status (e : PortAnswers) (r : List HostEvent) : (s.loadCommand e r).status = s.status := rfl
@[simp] theorem State.loadCommand_fragCtr (e : PortAnswers) (r : List HostEvent) : (s.loadCommand e r).fragCtr = s.fragCtr := rfl
@[simp] theorem State.loadCommand_ob (e : PortAnswers) (r : List HostEvent) : (s.loadCommand e r).ob = s.ob := rfl
@[simp] theorem State.loadCommand_iq (e : PortAnswers) (r : List HostEvent) : (s.loadCommand e r).iq = s.iq := rfl
@[simp] theorem State.loadCommand_rs (e : PortAnswers) (r : List HostEvent) : (s.loadCommand e r).rs = s.rs := rfl
@[simp] theorem State.loadCommand_sub (e : PortAnswers) (r : List HostEvent) : (s.loadCommand e r).sub = s.sub := rfl
@[simp] theorem State.loadCommand_pub (e : PortAnswers) (r : List HostEvent) : (s.loadCommand e r).pub = s.pub := rfl
@[simp] theorem State.loadCommand_pend (e : PortAnswers) (r : List HostEvent) : (s.loadCommand e r).pend = s.pend := rfl
@[simp] theorem State.loadCommand_sl (e : PortAnswers) (r : List HostEvent) : (s.loadCommand e r).sl = s.sl := rfl
@[simp] theorem State.loadCommand_host (e : PortAnswers) (r : List HostEvent) : (s.loadCommand e r).host = r := rfl
@[simp] theorem State.loadCommand_env (e : PortAnswers) (r : List HostEvent) : (s.loadCommand e r).env = e := rfl
@[simp] theorem State.loadCommand_responses (e : PortAnswers) (r : List HostEvent) : (s.loadCommand e r).responses = s.responses := rfl
@[simp] theorem State.loadCommand_calls (e : PortAnswers) (r : List HostEvent) : (s.loadCommand e r).calls = s.calls := rfl

end Sys2Proof.Machine
end

