-- ==== Sys2Proof/Laws/Ops.lean ====
section
/-! SUPPORT. What the shared operations that send frames do (43_host_commands R201, R203, R204), each said once: which calls
are made, with which answers, which code comes out, and what else of the state changes. -/
namespace Sys2Proof.Machine

/-- The first answer of a command is the next one. -/
theorem txAnswerAt_zero (e : PortAnswers) : txAnswerAt e 0 = nextTxAnswer e := by
  unfold txAnswerAt nextTxAnswer; cases e.tx <;> rfl
/-- After one send the answers are those that followed it. -/
theorem txAnswerAt_afterTx (e : PortAnswers) (i : Nat) : txAnswerAt (afterTx e) i = txAnswerAt e (i+1) := by
  simp [txAnswerAt, afterTx]
/-- The calls of a list of sends, the first one apart. -/
theorem txCalls_cons (e : PortAnswers) (a : Addr) (f : Bytes) (l : List (Addr × Bytes)) (n : Nat) :
   txCalls e ((a,f)::l) (n+1) = .txSend a f (nextTxAnswer e) :: txCalls (afterTx e) l n := by
  simp [txCalls, List.mapIdx_cons, txAnswerAt_zero, txAnswerAt_afterTx]

theorem success_beq_sendFailure : (ResultCode.success == ResultCode.sendFailure) = false := by decide
theorem partialMessage_beq_sendFailure : (ResultCode.partialMessage == ResultCode.sendFailure) = false := by decide

/-- TxBatch, everything it does (43_host_commands R201): it makes the sends up to the first that is not full, answers that
one's code, and notes a FAIL in NEEDS_RESET. -/
theorem sendUntilFailure_spec (l : List (Addr × Bytes)) (s : State) :
  ∃ made code, BatchOutcome s.env l made code ∧ sendUntilFailure l s = (code,
    { s with status := { s.status with needsReset := s.status.needsReset || code == .sendFailure }
             env := { s.env with tx := s.env.tx.drop made }
             calls := s.calls ++ txCalls s.env l made }) := by
  induction l generalizing s with
  | nil => exact ⟨0, .success, .inl ⟨rfl, rfl, by simp⟩, by simp [sendUntilFailure, txCalls, success_beq_sendFailure]⟩
  | cons af l ih =>
    obtain ⟨a, f⟩ := af
    unfold sendUntilFailure
    have h1 : (txSend a f s).1 = nextTxAnswer s.env := rfl
    have h2 : (txSend a f s).2 = {s with env := afterTx s.env, calls := s.calls ++ [.txSend a f (nextTxAnswer s.env)]} := rfl
    rw [h1, h2]
    rcases hans : nextTxAnswer s.env with n | _
    · by_cases hn : n < f.length
      · refine ⟨1, .partialMessage, .inr ⟨0, a, f, rfl, rfl, by simp, .inr ⟨n, ?_, hn, rfl⟩⟩, ?_⟩
        · rw [txAnswerAt_zero, hans]
        · simp [txCode, hn, State.noteTx, afterTx, txCalls, txAnswerAt_zero, hans, partialMessage_beq_sendFailure]
      · obtain ⟨made, code, hb, he⟩ := ih {s with env := afterTx s.env, calls := s.calls ++ [.txSend a f (.wrote n)]}
        refine ⟨made+1, code, ?_, ?_⟩
        · rcases hb with ⟨rfl, rfl, hf⟩ | ⟨j, a', f', hj, rfl, hf, hc⟩
          · refine .inl ⟨rfl, rfl, ?_⟩
            intro i a' f' hi
            cases i with
            | zero => simp at hi; obtain ⟨rfl, rfl⟩ := hi; exact ⟨n, by rw [txAnswerAt_zero, hans], by omega⟩
            | succ i => rw [← txAnswerAt_afterTx]; exact hf i a' f' (by simpa using hi)
          · refine .inr ⟨j+1, a', f', by simpa using hj, rfl, ?_, ?_⟩
            · intro i a'' f'' hi hi2
              cases i with
              | zero => simp at hi2; obtain ⟨rfl, rfl⟩ := hi2; exact ⟨n, by rw [txAnswerAt_zero, hans], by omega⟩
              | succ i => rw [← txAnswerAt_afterTx]; exact hf i a'' f'' (by omega) (by simpa using hi2)
            · rw [← txAnswerAt_afterTx]; exact hc
        · simp only [txCode, hn, if_false]
          rw [he]
          simp [txCalls_cons, hans, afterTx]
    · refine ⟨1, .sendFailure, .inr ⟨0, a, f, rfl, rfl, by simp, .inl ⟨?_, rfl⟩⟩, ?_⟩
      · rw [txAnswerAt_zero, hans]
      · simp [txCode, State.noteTx, afterTx, txCalls, txAnswerAt_zero, hans, State.setNeedsReset]

/-- The DISCONNECT sends of RESET, everything they do (43_host_commands R203). -/
theorem sendIgnoring_spec (f : Bytes) (l : List Addr) (s : State) :
  sendIgnoring f l s = { s with env := { s.env with tx := s.env.tx.drop l.length }
                                calls := s.calls ++ txCalls s.env (l.map fun a => (a, f)) l.length } := by
  induction l generalizing s with
  | nil => simp [sendIgnoring, txCalls]
  | cons a l ih =>
    unfold sendIgnoring
    rw [ih]
    simp [txSend, State.logCall, txCalls_cons, afterTx]

/-- The codes of `n` sends of the frame `f` (43_host_commands R204). -/
def sendCodes (f : Bytes) (e : PortAnswers) (n : Nat) : List ResultCode := (List.range n).map fun i => txCode f.length (txAnswerAt e i)

/-- The DISCONNECT sends of SHUTDOWN, everything they do (43_host_commands R204). -/
theorem sendToAll_spec (f : Bytes) (l : List Addr) (c : ResultCode) (s : State) :
  sendToAll f l c s = ((sendCodes f s.env l.length).foldl firstError c,
    { s with status := { s.status with needsReset := s.status.needsReset || (sendCodes f s.env l.length).contains .sendFailure }
             env := { s.env with tx := s.env.tx.drop l.length }
             calls := s.calls ++ txCalls s.env (l.map fun a => (a, f)) l.length }) := by
  induction l generalizing s c with
  | nil => simp [sendToAll, txCalls, sendCodes]
  | cons a l ih =>
    have hc : sendCodes f s.env (l.length + 1) = txCode f.length (nextTxAnswer s.env) :: sendCodes f (afterTx s.env) l.length := by
      simp [sendCodes, List.range_succ_eq_map, txAnswerAt_zero, txAnswerAt_afterTx, Function.comp_def]
    unfold sendToAll
    have h1 : (txSend a f s).1 = nextTxAnswer s.env := rfl
    have h2 : (txSend a f s).2 = {s with env := afterTx s.env, calls := s.calls ++ [.txSend a f (nextTxAnswer s.env)]} := rfl
    rw [h1, h2, ih]
    simp only [List.length_cons, hc, List.map_cons, txCalls_cons]
    rcases nextTxAnswer s.env with n | _
    · by_cases hn : n < f.length <;> simp [State.noteTx, txCode, hn, afterTx]
    · simp [State.noteTx, txCode, afterTx, State.setNeedsReset]

/-- The first error of a list of codes (60_exceptions R263). -/
theorem foldl_firstError (c : ResultCode) (l : List ResultCode) : l.foldl firstError c = ((c :: l).find? fun c => c != .success).getD .success := by
  induction l generalizing c with
  | nil => cases c <;> rfl
  | cons d l ih =>
    rw [List.foldl_cons, ih]
    by_cases h : c = .success
    · subst h; simp [firstError]
    · simp [firstError, h]

/-- PrepareFrag changes S.FRAG_CTR alone (41_fragmentation R141). -/
theorem prepareFrag_state (b : Bytes) (s : State) :
    (prepareFrag b s).2 = { s with fragCtr := (prepareFrag b s).2.fragCtr } := by
  unfold prepareFrag; split <;> rfl

/-- Fragmenting and sending a payload, everything it does (43_host_commands R209 to R211). -/
theorem fragmentAndSend_spec (b : Bytes) (dests : List Addr) (s : State) :
    ∃ made code, BatchOutcome s.env (batchSends (prepareFrag b s).1 dests) made code ∧
      fragmentAndSend b dests s =
        { s with
            fragCtr := (prepareFrag b s).2.fragCtr
            status := { s.status with needsReset := s.status.needsReset || code == .sendFailure }
            env := { s.env with tx := s.env.tx.drop made }
            calls := s.calls ++ txCalls s.env (batchSends (prepareFrag b s).1 dests) made
            responses := s.responses ++ [[code.byte]] } := by
  unfold fragmentAndSend txBatch
  obtain ⟨made, code, hb, he⟩ := sendUntilFailure_spec (batchSends (prepareFrag b s).1 dests) (prepareFrag b s).2
  have h := prepareFrag_state b s
  generalize prepareFrag b s = q at *
  rw [h] at hb he
  refine ⟨made, code, hb, ?_⟩
  rw [h]
  simp only [he]; rfl

end Sys2Proof.Machine
end

