-- ==== Sys2Proof/Laws/PerInstr.lean ====
section
/-! SUPPORT. The family RowByte: the first byte of every instruction's encoding satisfies the mask and match of its row of
spec/opcode_table.json (30_encoding R89 for the commands, R96 for the frame kinds). -/
namespace Sys2Proof.Laws.RowByte
open Sys2Proof

/-- The mask of the instruction's row. -/
def rowMask : Instr → Byte
  | .init _ _ _ => 0xFF
  | .reset _ _ _ => 0xFF
  | .shutdown => 0xFF
  | .recv => 0xFF
  | .getPackets => 0xFF
  | .push _ => 0xFF
  | .flush => 0xFF
  | .send _ => 0xFF
  | .sendTo _ _ => 0xFF
  | .sendCtrl _ _ => 0xFF
  | .isInitialized => 0xFF
  | .needsReset => 0xFF
  | .hasSubscribers => 0xFF
  | .regLookup _ => 0xFF
  | .hdrEncode _ _ _ _ _ _ _ => 0xFF
  | .hdrDecode _ => 0xFF
  | .pushFrame _ _ _ => 0xEC
  | .connectFrame _ _ _ => 0xEC
  | .ackFrame _ _ _ => 0xEC
  | .disconnectFrame _ _ _ => 0xEC

/-- The match of the instruction's row. -/
def rowMatch : Instr → Byte
  | .init _ _ _ => 0x01
  | .reset _ _ _ => 0x02
  | .shutdown => 0x03
  | .recv => 0x04
  | .getPackets => 0x05
  | .push _ => 0x06
  | .flush => 0x07
  | .send _ => 0x08
  | .sendTo _ _ => 0x09
  | .sendCtrl _ _ => 0x0A
  | .isInitialized => 0x10
  | .needsReset => 0x11
  | .hasSubscribers => 0x12
  | .regLookup _ => 0x13
  | .hdrEncode _ _ _ _ _ _ _ => 0x20
  | .hdrDecode _ => 0x21
  | .pushFrame _ _ _ => 0xA0
  | .connectFrame _ _ _ => 0xA4
  | .ackFrame _ _ _ => 0xA8
  | .disconnectFrame _ _ _ => 0xAC

/-- The first byte of the encoding is a byte of the instruction's row. -/
def Statement (i : Instr) : Prop := ∃ b0 rest, encode i = b0 :: rest ∧ b0 &&& rowMask i = rowMatch i

/-- An opcode's mask covers the whole byte. -/
theorem and_opcodeMask (b : Byte) : b &&& (0xFF : Byte) = b := by revert b; decide

theorem init (version port : U16) (nodeType : Byte) : Statement (.init version port nodeType) := ⟨_, _, rfl, and_opcodeMask _⟩

theorem reset (version port : U16) (nodeType : Byte) : Statement (.reset version port nodeType) := ⟨_, _, rfl, and_opcodeMask _⟩

theorem shutdown : Statement .shutdown := ⟨_, _, rfl, and_opcodeMask _⟩

theorem recv : Statement .recv := ⟨_, _, rfl, and_opcodeMask _⟩

theorem getPackets : Statement .getPackets := ⟨_, _, rfl, and_opcodeMask _⟩

theorem push (data : Bytes) : Statement (.push data) := ⟨_, _, rfl, and_opcodeMask _⟩

theorem flush : Statement .flush := ⟨_, _, rfl, and_opcodeMask _⟩

theorem send (data : Bytes) : Statement (.send data) := ⟨_, _, rfl, and_opcodeMask _⟩

theorem sendTo (dest : Addr) (data : Bytes) : Statement (.sendTo dest data) := ⟨_, _, rfl, and_opcodeMask _⟩

theorem sendCtrl (req : Byte) (dest : Addr) : Statement (.sendCtrl req dest) := ⟨_, _, rfl, and_opcodeMask _⟩

theorem isInitialized : Statement .isInitialized := ⟨_, _, rfl, and_opcodeMask _⟩

theorem needsReset : Statement .needsReset := ⟨_, _, rfl, and_opcodeMask _⟩

theorem hasSubscribers : Statement .hasSubscribers := ⟨_, _, rfl, and_opcodeMask _⟩

theorem regLookup (addr : Addr) : Statement (.regLookup addr) := ⟨_, _, rfl, and_opcodeMask _⟩

theorem hdrEncode (type req moreFrag : Byte) (payloadLength : U16) (fragIndex fragRef : Byte) (protocolVersion : U16) :
    Statement (.hdrEncode type req moreFrag payloadLength fragIndex fragRef protocolVersion) := ⟨_, _, rfl, and_opcodeMask _⟩

theorem hdrDecode (hdr : Hdr7) : Statement (.hdrDecode hdr) := ⟨_, _, rfl, and_opcodeMask _⟩

/-- Byte 0 of a frame under the mask of 30_encoding R96: `type` and `more_frag` are masked out. -/
theorem headerByte0_and (f : FrameFields) (r : Req) :
    headerByte0 (f.header r) &&& (0xEC : Byte) =
      match r with
      | .push => 0xA0
      | .connect => 0xA4
      | .ack => 0xA8
      | .disconnect => 0xAC := by
  obtain ⟨t, m, -, -, -, -⟩ := f
  cases t <;> cases r <;> cases m <;> (simp only [headerByte0, FrameFields.header]; decide)

theorem pushFrame (sender : Addr) (fields : FrameFields) (payload : Bytes) :
    Statement (.pushFrame sender fields payload) := ⟨_, _, rfl, headerByte0_and fields .push⟩

theorem connectFrame (sender : Addr) (fields : FrameFields) (payload : Bytes) :
    Statement (.connectFrame sender fields payload) := ⟨_, _, rfl, headerByte0_and fields .connect⟩

theorem ackFrame (sender : Addr) (fields : FrameFields) (payload : Bytes) :
    Statement (.ackFrame sender fields payload) := ⟨_, _, rfl, headerByte0_and fields .ack⟩

theorem disconnectFrame (sender : Addr) (fields : FrameFields) (payload : Bytes) :
    Statement (.disconnectFrame sender fields payload) := ⟨_, _, rfl, headerByte0_and fields .disconnect⟩

end Sys2Proof.Laws.RowByte
end

