-- ==== Sys2Proof/Laws/Receive.lean ====
section
/-! SUPPORT. What the shared operations of the receive cycle change and what they depend on (41_fragmentation R143 to R151,
42_registry R185, 43_host_commands R205, R206): the engine changes S.RS and S.SL alone, the registry pass S.IQ and the three
tables alone, and neither reads the log of driver calls. -/
namespace Sys2Proof.Machine

/-! ### The log of driver calls -/

/-- The state with another log of driver calls. -/
def State.withCalls (s : State) (c : List DriverCall) : State := { s with calls := c }

theorem State.logCall_eq (s : State) (c : DriverCall) : s.logCall c = s.withCalls (s.calls ++ [c]) := rfl

@[simp] theorem State.withCalls_calls (s : State) (c : List DriverCall) : (s.withCalls c).calls = c := rfl

@[simp] theorem State.withCalls_withCalls (s : State) (c d : List DriverCall) :
    (s.withCalls c).withCalls d = s.withCalls d := rfl

@[simp] theorem State.withCalls_self (s : State) : s.withCalls s.calls = s := rfl

/-! ### The engine -/

/-- The engine's append changes S.RS and S.SL alone. -/
theorem addToGroup_eq (g : Nat) (m : Member) (t : U32) (s : State) :
    addToGroup g m t s = { s with rs := (addToGroup g m t s).rs, sl := (addToGroup g m t s).sl } := by
  unfold addToGroup; repeat' split
  all_goals rfl

/-- Opening a group changes S.RS and S.SL alone. -/
theorem startGroup_eq (m : Member) (t : U32) (s : State) :
    startGroup m t s = { s with rs := (startGroup m t s).rs, sl := (startGroup m t s).sl } := by
  unfold startGroup; split
  · rfl
  · rw [addToGroup_eq]

/-- ProcessFrag changes S.RS and S.SL alone. -/
theorem processFrag_eq (m : Member) (t : U32) (s : State) :
    processFrag m t s = { s with rs := (processFrag m t s).rs, sl := (processFrag m t s).sl } := by
  unfold processFrag; split
  · rw [startGroup_eq]
  · split
    · rw [startGroup_eq]
    · rw [addToGroup_eq]

/-- Taking a frame in changes S.RS and S.SL alone. -/
theorem routeFrame_eq (t : U32) (m : Member) (s : State) :
    routeFrame t m s = { s with rs := (routeFrame t m s).rs, sl := (routeFrame t m s).sl } := by
  unfold routeFrame; split
  · rfl
  · exact processFrag_eq _ _ _

/-- Taking frames in changes S.RS and S.SL alone. -/
theorem foldl_routeFrame_eq (t : U32) (l : List Member) (s : State) :
    l.foldl (fun u m => routeFrame t m u) s =
      { s with rs := (l.foldl (fun u m => routeFrame t m u) s).rs
               sl := (l.foldl (fun u m => routeFrame t m u) s).sl } := by
  induction l generalizing s with
  | nil => rfl
  | cons m l ih => simp only [List.foldl_cons]; rw [ih, routeFrame_eq]

theorem addToGroup_withCalls (g : Nat) (m : Member) (t : U32) (s : State) (c : List DriverCall) :
    addToGroup g m t (s.withCalls c) = (addToGroup g m t s).withCalls c := by
  unfold addToGroup State.withCalls; dsimp only; split <;> (try split) <;> (try split) <;> simp_all

theorem startGroup_withCalls (m : Member) (t : U32) (s : State) (c : List DriverCall) :
    startGroup m t (s.withCalls c) = (startGroup m t s).withCalls c := by
  unfold startGroup
  show (match freeSlot s.rs with | none => _ | some g => _) = _
  cases freeSlot s.rs with
  | none => rfl
  | some g => exact addToGroup_withCalls g m t { s with rs := s.rs.modify g (Slot.start m.hdr.fragRef) } c

theorem processFrag_withCalls (m : Member) (t : U32) (s : State) (c : List DriverCall) :
    processFrag m t (s.withCalls c) = (processFrag m t s).withCalls c := by
  unfold processFrag
  show (match findGroup s.rs m.hdr.fragRef with | none => _ | some g => _) = _
  cases findGroup s.rs m.hdr.fragRef with
  | none => exact startGroup_withCalls m t s c
  | some g =>
    show (if staleAt s t g then _ else _) = _
    dsimp only
    by_cases h : staleAt s t g = true
    · rw [if_pos h, if_pos h]; exact startGroup_withCalls m t { s with rs := s.rs.modify g Slot.release } c
    · rw [if_neg h, if_neg h]; exact addToGroup_withCalls g m t s c

theorem routeFrame_withCalls (t : U32) (m : Member) (s : State) (c : List DriverCall) :
    routeFrame t m (s.withCalls c) = (routeFrame t m s).withCalls c := by
  unfold routeFrame; split
  · rfl
  · exact processFrag_withCalls m t s c

theorem foldl_routeFrame_withCalls (t : U32) (l : List Member) (s : State) (c : List DriverCall) :
    l.foldl (fun u m => routeFrame t m u) (s.withCalls c) =
      (l.foldl (fun u m => routeFrame t m u) s).withCalls c := by
  induction l generalizing s with
  | nil => rfl
  | cons m l ih => simp only [List.foldl_cons, routeFrame_withCalls, ih]

/-- The drain loop takes in the accepted members in order and logs one RxPoll for each datagram (43_host_commands R205). -/
theorem foldl_acceptDatagram (t : U32) (l : List (Addr × Bytes)) (s : State) :
    l.foldl (acceptDatagram t) s =
      ((acceptedMembers l).foldl (fun u m => routeFrame t m u) s).withCalls
        (s.calls ++ l.map fun a => .rxPoll (.datagram a.1 a.2)) := by
  induction l generalizing s with
  | nil => simp [acceptedMembers]
  | cons a l ih =>
    have e : acceptedMembers (a :: l) =
        (match parseDatagram a.2 with
          | none => []
          | some (h, p) => [{ sender := a.1, hdr := h, payload := p }]) ++ acceptedMembers l := by
      unfold acceptedMembers; rw [List.filterMap_cons]; cases parseDatagram a.2 <;> rfl
    rw [List.foldl_cons, ih, e]
    unfold acceptDatagram
    cases parseDatagram a.2 with
    | none => simp only [State.logCall_eq, foldl_routeFrame_withCalls, List.nil_append, State.withCalls_calls,
        State.withCalls_withCalls, List.map_cons, List.append_assoc, List.cons_append]
    | some hp =>
      simp only [State.logCall_eq, routeFrame_withCalls, foldl_routeFrame_withCalls,
        List.foldl_cons, State.withCalls_calls, State.withCalls_withCalls, List.map_cons, List.append_assoc,
        List.cons_append, List.nil_append]

/-! ### The registry pass and eviction -/

/-- A packet changes S.IQ and the three tables alone. -/
theorem applyPacket_eq (s : State) (p : Packet) :
    applyPacket s p = { s with iq := (applyPacket s p).iq, sub := (applyPacket s p).sub, pub := (applyPacket s p).pub,
                               pend := (applyPacket s p).pend } := by
  unfold applyPacket; split <;> simp only [pushDeliver, connectTransition, ackTransition, disconnectTransition]
  split
  · rfl
  · split <;> rfl

/-- The registry pass changes S.IQ and the three tables alone. -/
theorem foldl_applyPacket_eq (l : List Packet) (s : State) :
    l.foldl applyPacket s =
      { s with iq := (l.foldl applyPacket s).iq, sub := (l.foldl applyPacket s).sub,
               pub := (l.foldl applyPacket s).pub, pend := (l.foldl applyPacket s).pend } := by
  induction l generalizing s with
  | nil => rfl
  | cons p l ih =>
    simp only [List.foldl_cons]
    rw [ih, applyPacket_eq]

/-- What a packet does depends on the parameters, S.IQ and the three tables alone. -/
theorem applyPacket_congr (p : Packet) (s u : State) (h1 : s.params = u.params) (h2 : s.iq = u.iq)
    (h3 : s.sub = u.sub) (h4 : s.pub = u.pub) (h5 : s.pend = u.pend) :
    (applyPacket s p).iq = (applyPacket u p).iq ∧ (applyPacket s p).sub = (applyPacket u p).sub ∧
      (applyPacket s p).pub = (applyPacket u p).pub ∧ (applyPacket s p).pend = (applyPacket u p).pend := by
  unfold applyPacket
  split <;> simp only [pushDeliver, connectTransition, ackTransition, disconnectTransition, h1, h2, h3, h4, h5] <;> grind

/-- What the registry pass does depends on the parameters, S.IQ and the three tables alone. -/
theorem foldl_applyPacket_congr (l : List Packet) (s u : State) (h1 : s.params = u.params) (h2 : s.iq = u.iq)
    (h3 : s.sub = u.sub) (h4 : s.pub = u.pub) (h5 : s.pend = u.pend) :
    (l.foldl applyPacket s).iq = (l.foldl applyPacket u).iq ∧
      (l.foldl applyPacket s).sub = (l.foldl applyPacket u).sub ∧
      (l.foldl applyPacket s).pub = (l.foldl applyPacket u).pub ∧
      (l.foldl applyPacket s).pend = (l.foldl applyPacket u).pend := by
  induction l generalizing s u with
  | nil => exact ⟨h2, h3, h4, h5⟩
  | cons p l ih =>
    obtain ⟨e1, e2, e3, e4⟩ := applyPacket_congr p s u h1 h2 h3 h4 h5
    apply ih _ _ _ e1 e2 e3 e4
    rw [applyPacket_eq s, applyPacket_eq u]; exact h1

/-- Eviction changes S.RS alone, to the groups `evicted` names (41_fragmentation R151). -/
theorem evictStale_eq (t : U32) (s : State) : evictStale t s = { s with rs := evicted s.params t s.rs } := by
  unfold evictStale evicted stale age Slot.release
  congr 1
  apply List.map_congr_left
  intro g _
  simp [Bool.and_eq_true]

/-! ### The cycle -/

/-- A receive cycle that ends, everything it does (43_host_commands R205, R206): `s1` is the state after the drain loop, `s2`
has the queue and the tables after the registry pass. -/
theorem receiveCycle_spec (arr : List (Addr × Bytes)) (s s1 s2 : State)
    (h1 : s1 = (acceptedMembers arr).foldl (fun u m => routeFrame s.env.now m u) { s with sl := [] })
    (h2 : s2 = s1.sl.foldl applyPacket s) :
    receiveCycle arr .wouldBlock s = .next
        { s with rs := evicted s.params s.env.now s1.rs, iq := s2.iq, sub := s2.sub, pub := s2.pub, pend := s2.pend,
                 sl := [], calls := s.calls ++ rxCalls arr .wouldBlock, responses := s.responses ++ [[0]] } ∧
      receiveCycle arr .error s = .next
        { s with rs := s1.rs, status := { s.status with needsReset := true }, sl := [],
                 calls := s.calls ++ rxCalls arr .error, responses := s.responses ++ [[6]] } := by
  unfold receiveCycle drain
  simp only [foldl_acceptDatagram]
  rw [← h1]
  have h3 : s1 = { s with rs := s1.rs, sl := s1.sl } := by
    rw [h1]; conv_lhs => rw [foldl_routeFrame_eq]
  constructor
  · unfold endOfCycle
    rw [evictStale_eq]
    generalize hX : State.logCall _ _ = X
    have hXsl : X.sl = s1.sl := by rw [← hX]; rfl
    have hXp : X = { s with rs := s1.rs, sl := s1.sl, calls := s.calls ++ rxCalls arr .wouldBlock } := by
      rw [← hX]; rw [h3]; simp [State.logCall, rxCalls, State.withCalls]
    rw [hXsl]
    have e := foldl_applyPacket_eq s1.sl X
    obtain ⟨c1, c2, c3, c4⟩ :=
      foldl_applyPacket_congr s1.sl X s (by rw [hXp]) (by rw [hXp]) (by rw [hXp]) (by rw [hXp]) (by rw [hXp])
    rw [e, c1, c2, c3, c4, ← h2, hXp]
    rfl
  · rw [h3]; simp [State.logCall, rxCalls, State.withCalls, State.reply, State.setNeedsReset, ResultCode.byte]

end Sys2Proof.Machine
end

