-- ==== Sys2Proof/Laws/Registry.lean ====
section
/-! SUPPORT. The addresses a registry table holds, under each kind of write the primitives of 42_registry make (R181 to
R184). -/
namespace Sys2Proof.Machine

/-- A change of an entry's type leaves the addresses. -/
theorem validAddrs_modify (T : List Entry) (i : Nat) (f : Entry → Entry) (hv : ∀ e, (f e).valid = e.valid)
    (ha : ∀ e, (f e).addr = e.addr) : validAddrs (T.modify i f) = validAddrs T := by
  induction T generalizing i with
  | nil => cases i <;> rfl
  | cons e T ih =>
    cases i with
    | zero => rw [List.modify_zero_cons]; by_cases hx : e.valid = true <;> simp [validAddrs, hv, hx, ha]
    | succ i => have := ih i; simp [List.modify, validAddrs, List.filter_cons] at *; split <;> simp_all

/-- Clearing a valid bit takes at most one address away. -/
theorem validAddrs_invalidate (T : List Entry) (i : Nat) :
    (validAddrs (T.modify i fun e => { e with valid := false })).Sublist (validAddrs T) := by
  induction T generalizing i with
  | nil => cases i <;> exact List.Sublist.refl _
  | cons e T ih =>
    cases i with
    | zero => rw [List.modify_zero_cons]; by_cases hx : e.valid = true <;> simp [validAddrs, hx]
    | succ i =>
      have := ih i; simp [validAddrs, List.filter_cons] at *; split
      · simp; exact this
      · exact this

/-- Filling an invalid entry adds its address. -/
theorem validAddrs_insert (T : List Entry) (j : Nat) (a : Addr) (ty : NodeType) (e : Entry) (hj : T[j]? = some e)
    (he : e.valid = false) :
    (validAddrs (T.set j { valid := true, addr := a, type := ty })).Perm (a :: validAddrs T) := by
  induction T generalizing j with
  | nil => simp at hj
  | cons x T ih =>
    cases j with
    | zero => simp at hj; subst hj; simp [validAddrs, he]
    | succ j =>
      have := ih j (by simpa using hj)
      simp only [List.set_cons_succ, validAddrs, List.filter_cons] at *; split
      · simp; exact (this.cons _).trans (List.Perm.swap _ _ _)
      · exact this

/-- Find fails exactly for an address that is not in the table (42_registry R181). -/
theorem findEntry_none (T : List Entry) (a : Addr) : findEntry T a = none ↔ a ∉ validAddrs T := by
  simp [findEntry, List.findIdx?_eq_none_iff, validAddrs, Entry.holds]

/-- Clearing a valid bit of S.PEND takes at most one address away. -/
theorem pendAddrs_invalidate (T : List PendEntry) (i : Nat) :
    (pendAddrs (T.modify i fun e => { e with valid := false })).Sublist (pendAddrs T) := by
  induction T generalizing i with
  | nil => cases i <;> exact List.Sublist.refl _
  | cons e T ih =>
    cases i with
    | zero => rw [List.modify_zero_cons]; by_cases hx : e.valid = true <;> simp [pendAddrs, hx]
    | succ i =>
      have := ih i; simp [pendAddrs, List.filter_cons] at *; split
      · simp; exact this
      · exact this

/-- Filling an invalid entry of S.PEND adds its address. -/
theorem pendAddrs_insert (T : List PendEntry) (j : Nat) (a : Addr) (e : PendEntry) (hj : T[j]? = some e)
    (he : e.valid = false) : (pendAddrs (T.set j { valid := true, addr := a })).Perm (a :: pendAddrs T) := by
  induction T generalizing j with
  | nil => simp at hj
  | cons x T ih =>
    cases j with
    | zero => simp at hj; subst hj; simp [pendAddrs, he]
    | succ j =>
      have := ih j (by simpa using hj)
      simp only [List.set_cons_succ, pendAddrs, List.filter_cons] at *; split
      · simp; exact (this.cons _).trans (List.Perm.swap _ _ _)
      · exact this

/-- Find in S.PEND fails exactly for an address that is not in it (42_registry R181). -/
theorem findPend_none (T : List PendEntry) (a : Addr) : findPend T a = none ↔ a ∉ pendAddrs T := by
  simp [findPend, List.findIdx?_eq_none_iff, pendAddrs, PendEntry.holds]

end Sys2Proof.Machine
end

