-- ==== Sys2Proof/Tests/Slice0.lean ====
section
/-! SUPPORT. The model's own tests: words written out from 30_encoding, one-step tests with results from the spec's rules,
examples and vectors (95_test_vectors), ill-formed terms that WellFormed refuses, and for every statement with hypotheses a
state and operands that meet them. -/
namespace Sys2Proof.Tests
open Sys2Proof Sys2Proof.Machine

/-! ### What the tests are written with -/

/-- Addresses of 95_test_vectors: A = 192.168.1.20:9000, P, Q, R = 10.0.0.1, .2, .3:9000. -/
def aA : Addr := { ip := 0xC0A80114, port := 9000 }
def aP : Addr := { ip := 0x0A000001, port := 9000 }
def aQ : Addr := { ip := 0x0A000002, port := 9000 }
def aR : Addr := { ip := 0x0A000003, port := 9000 }

/-- An initialised ROVER with version 5 and one subscriber, Q. -/
def ready : State :=
  { State.reset with
      status := { init := true, needsReset := false }
      cfg := { version := 5, port := 9000, type := .rover }
      sub := { valid := true, addr := aQ, type := .drone } :: List.replicate 3 .empty }

/-- `s` when a command has met the driver answers `e`. -/
def meets (s : State) (e : PortAnswers) : State := { s with env := e }

/-- A driver that delivers `ds` and then ends as `fin` says, at time `t`. -/
def delivering (t : U32) (ds : List (Addr × Bytes)) (fin : RxEnd) : PortAnswers :=
  { PortAnswers.quiet with now := t, arrivals := ds, rxEnd := fin }

/-- A driver whose TxSend answers begin with `tx`. -/
def sending (tx : List TxAnswer) : PortAnswers := { PortAnswers.quiet with tx := tx }

/-- What `f` reads of the next state; none where there is no next state. -/
def see {α : Type} (f : State → α) : Outcome → Option α
  | .next s => some (f s)
  | .fault _ => none
  | .refused _ => none

/-- One step of `s` with the message `m` and the answers `e` on the host port. -/
def onMessage (m : Bytes) (e : PortAnswers) (s : State) : Outcome := step { s with host := [.command m e] }

/-- A frame of a DRONE with version 5. -/
def droneFrame (req : Req) (more : Bool) (i ref : Byte) (data : Bytes) : Bytes :=
  encodeHeader { type := .drone, req := req, moreFrag := more, pad := 5, payloadLength := BitVec.ofNat 16 data.length,
                 fragIndex := i, fragRef := ref, protocolVersion := 5 } ++ data

/-- The member a PUSH fragment of a DRONE from Q becomes. -/
def fragment (more : Bool) (i ref : Byte) (data : Bytes) : Member :=
  { sender := aQ
    hdr := { type := .drone, req := .push, moreFrag := more, pad := 5, payloadLength := BitVec.ofNat 16 data.length,
             fragIndex := i, fragRef := ref, protocolVersion := 5 }
    payload := data }

/-- The open fields of an unfragmented DRONE frame, version 5, with `n` payload bytes. -/
def droneFields (n : U16) : FrameFields :=
  { type := .drone, moreFrag := false, payloadLength := n, fragIndex := 0, fragRef := 0, protocolVersion := 5 }

/-! ### WellFormed refuses ill-formed terms (one for each check) -/

theorem bytesFit_replicate (n : Nat) (h : 2 ^ 32 ≤ n) : bytesFit (List.replicate n 0) = false := by
  simp only [bytesFit, List.length_replicate, decide_eq_false_iff_not]; omega

theorem test_push_of_4GiB_is_ill_formed : (Instr.push (List.replicate (2 ^ 32) 0)).wellFormed = false :=
  bytesFit_replicate (2 ^ 32) (Nat.le_refl _)

theorem test_send_of_4GiB_is_ill_formed : (Instr.send (List.replicate (2 ^ 32) 0)).wellFormed = false :=
  bytesFit_replicate (2 ^ 32) (Nat.le_refl _)

theorem test_sendTo_of_4GiB_is_ill_formed : (Instr.sendTo aQ (List.replicate (2 ^ 32) 0)).wellFormed = false :=
  bytesFit_replicate (2 ^ 32) (Nat.le_refl _)

theorem test_pushFrame_length_is_checked : (Instr.pushFrame aQ (droneFields 2) [0x41]).wellFormed = false := by decide

theorem test_connectFrame_length_is_checked : (Instr.connectFrame aQ (droneFields 0) [0x41]).wellFormed = false := by
  decide

theorem test_ackFrame_length_is_checked : (Instr.ackFrame aQ (droneFields 1) []).wellFormed = false := by decide

theorem test_disconnectFrame_length_is_checked : (Instr.disconnectFrame aQ (droneFields 3) [1, 2]).wellFormed = false := by
  decide

/-! ### Words written out from 30_encoding R81, R87, R89, R90 decode to what they stand for -/

/-- 43_host_commands R202: `INIT 5, 9000, ROVER` = `01 05 00 28 23 00`. -/
theorem test_decode_init :
    decodeCommand [0b00000001, 0b00000101, 0b00000000, 0b00101000, 0b00100011, 0b00000000] = .ok (.init 5 9000 0) := by
  decide

theorem test_decode_reset :
    decodeCommand [0b00000010, 0b00000010, 0b00000001, 0b00101000, 0b00100011, 0b00000011] = .ok (.reset 0x0102 9000 3) := by
  decide

theorem test_decode_shutdown : decodeCommand [0b00000011] = .ok .shutdown := by decide

theorem test_decode_recv : decodeCommand [0b00000100] = .ok .recv := by decide

theorem test_decode_getPackets : decodeCommand [0b00000101] = .ok .getPackets := by decide

theorem test_decode_push : decodeCommand [0x06, 0x02, 0x00, 0x00, 0x00, 0x41, 0x42] = .ok (.push [0x41, 0x42]) := by
  decide

theorem test_decode_flush : decodeCommand [0b00000111] = .ok .flush := by decide

theorem test_decode_send : decodeCommand [0x08, 0x01, 0x00, 0x00, 0x00, 0x5A] = .ok (.send [0x5A]) := by decide

/-- 43_host_commands R211's example: `SEND_TO 10.0.0.7:9000, x"00"`. -/
theorem test_decode_sendTo :
    decodeCommand [0x09, 0x0A, 0x00, 0x00, 0x07, 0x28, 0x23, 0x01, 0x00, 0x00, 0x00, 0x00] =
      .ok (.sendTo { ip := 0x0A000007, port := 9000 } [0x00]) := by decide

theorem test_decode_sendCtrl :
    decodeCommand [0x0A, 0x03, 0x0A, 0x00, 0x00, 0x01, 0x28, 0x23] = .ok (.sendCtrl 3 aP) := by decide

theorem test_decode_isInitialized : decodeCommand [0b00010000] = .ok .isInitialized := by decide

theorem test_decode_needsReset : decodeCommand [0b00010001] = .ok .needsReset := by decide

theorem test_decode_hasSubscribers : decodeCommand [0b00010010] = .ok .hasSubscribers := by decide

/-- 20_memory R63: 192.168.1.20 is `C0 A8 01 14`. -/
theorem test_decode_regLookup : decodeCommand [0x13, 0xC0, 0xA8, 0x01, 0x14, 0x28, 0x23] = .ok (.regLookup aA) := by
  decide

/-- 95_test_vectors T-C2: `HDR_ENCODE ROVER, PUSH, 1, 500, 0, 1, 5`. -/
theorem test_decode_hdrEncode :
    decodeCommand [0x20, 0x00, 0x00, 0x01, 0xF4, 0x01, 0x00, 0x01, 0x05, 0x00] = .ok (.hdrEncode 0 0 1 500 0 1 5) := by
  decide

theorem test_decode_hdrDecode :
    decodeCommand [0x21, 0xA5, 0x01, 0x02, 0x03, 0x04, 0x05, 0x06] = .ok (.hdrDecode ⟨0xA5, 1, 2, 3, 4, 5, 6⟩) := by
  decide

/-- 40_header_codec R125's example: padding 101, more_frag 0, req 00, type 01; the trailing 99 is ignored. -/
theorem test_decode_pushFrame :
    decodeDatagram aQ [0b10100001, 0x01, 0x00, 0x02, 0x07, 0x05, 0x00, 0x4F, 0x99] =
      .ok (.pushFrame aQ { type := .drone, moreFrag := false, payloadLength := 1, fragIndex := 2, fragRef := 7,
                           protocolVersion := 5 } [0x4F]) := by decide

/-- 40_header_codec R121's example. -/
theorem test_decode_connectFrame :
    decodeDatagram aA [0b10100101, 0x00, 0x00, 0x00, 0x00, 0x05, 0x00] = .ok (.connectFrame aA (droneFields 0) []) := by
  decide

/-- 95_test_vectors T-C3: an ACK of a ROVER with two payload bytes. -/
theorem test_decode_ackFrame :
    decodeDatagram aP [0b10101000, 0x02, 0x00, 0x00, 0x00, 0x05, 0x00, 0xDE, 0xAD] =
      .ok (.ackFrame aP { droneFields 2 with type := .rover } [0xDE, 0xAD]) := by decide

/-- 30_encoding R82: `BF` is a GS DISCONNECT with more_frag; the 16-bit fields are little-endian (20_memory R60). -/
theorem test_decode_disconnectFrame :
    decodeDatagram aP [0b10111111, 0x00, 0x00, 0x09, 0x08, 0x34, 0x12] =
      .ok (.disconnectFrame aP { type := .gs, moreFrag := true, payloadLength := 0, fragIndex := 9, fragRef := 8,
                                 protocolVersion := 0x1234 } []) := by decide

/-- 40_header_codec R125, 30_encoding R83: a runt, a bad padding and a truncated payload are no frames. -/
theorem test_decode_refuses_bad_datagrams :
    decodeDatagram aP [0xA5, 0, 0, 0, 0, 5] = .error .runt ∧
      decodeDatagram aP [0x85, 0, 0, 0, 0, 5, 0] = .error .badPadding ∧
      decodeDatagram aP [0xA0, 5, 0, 0, 0, 5, 0, 0x41] = .error .truncated := by decide

/-- 30_encoding R92 and R93: the opcode is looked at first. -/
theorem test_decode_refuses_bad_messages :
    decodeCommand [] = .error .badOpcode ∧ decodeCommand [0x0B, 1, 2] = .error .badOpcode ∧
      decodeCommand [0x01, 5, 0, 0x28, 0x23] = .error .badLength ∧
      decodeCommand [0x06, 3, 0, 0, 0, 0x41, 0x42] = .error .badLength := by decide

/-- No two rows of spec/opcode_table.json match one byte. -/
theorem test_table_rows_do_not_overlap :
    ([((0x01 : Byte), (0xFF : Byte)), (0x02, 0xFF), (0x03, 0xFF), (0x04, 0xFF), (0x05, 0xFF), (0x06, 0xFF), (0x07, 0xFF),
      (0x08, 0xFF), (0x09, 0xFF), (0x0A, 0xFF)] ++
     [(0x10, 0xFF), (0x11, 0xFF), (0x12, 0xFF), (0x13, 0xFF), (0x20, 0xFF), (0x21, 0xFF), (0xA0, 0xEC), (0xA4, 0xEC),
      (0xA8, 0xEC), (0xAC, 0xEC)]).Pairwise fun (a b : Byte × Byte) => a.1 &&& b.2 ≠ b.1 &&& a.2 := by decide

/-! ### Assembly (30_encoding R94, R95) -/

/-- 42_registry R192's line. -/
theorem test_assemble_regLookup :
    assembleLine "REG_LOOKUP 192.168.1.20:9000 ; A".toList = some [.regLookup aA] := by decide

/-- 95_test_vectors T-C2. -/
theorem test_assemble_hdrEncode :
    assembleLine "HDR_ENCODE REMOTE, ACK, 0, 0, 0, 0, 0x0102".toList = some [.hdrEncode 2 2 0 0 0 0 0x0102] := by decide

/-- 30_encoding R95. -/
theorem test_assemble_pseudo : assembleLine "CONNECT_TO 10.0.0.1:9000".toList = some [.sendCtrl 1 aP] := by decide

/-- 30_encoding R94: a comment runs to the end of its line and no further, whatever stands in it. -/
theorem test_assemble_quote_in_comment :
    assemble ("RECV ; \"\nFLUSH".toList) = some [.recv, .flush] := by decide

/-- Log 17: a line break inside quotes ends the line. -/
theorem test_assemble_line_break_in_quotes :
    assemble ("PUSH \"A\nB\"".toList) = none := by decide

/-! ### One step of each instruction -/

/-- 43_host_commands R202's example. -/
theorem test_init_succeeds :
    see (fun t => (t.responses, t.cfg, t.status)) (onMessage [0x01, 0x05, 0x00, 0x28, 0x23, 0x00] .quiet .reset) =
      some ([[0x00]], { version := 5, port := 9000, type := .rover }, { init := true, needsReset := false }) := by decide

/-- 43_host_commands R202: on NONBLOCK_FAIL the code is 5 (60_exceptions R260) and S.CFG stays. -/
theorem test_init_fails :
    see (fun t => (t.responses, t.cfg, t.status.init))
        (exec (.init 5 9000 1) (meets .reset { PortAnswers.quiet with openAns := .nonblockFail })) =
      some ([[0x05]], { version := 0, port := 0, type := .rover }, false) := by decide

/-- 43_host_commands R203's example: the DISCONNECT fails, OPEN answers OK. -/
theorem test_reset_recovers :
    see (fun t => (t.responses, t.status, validAddrs t.sub))
        (exec (.reset 5 9000 0) (meets ready.setNeedsReset (sending [.fail]))) =
      some ([[0x00]], { init := true, needsReset := false }, [aQ]) := by decide

/-- 43_host_commands R203: after a failed reopen INIT = 0 and NEEDS_RESET = 0, and the old configuration stays. -/
theorem test_reset_reopen_fails :
    see (fun t => (t.responses, t.status, t.cfg.version))
        (exec (.reset 6 9001 3) (meets ready.setNeedsReset { PortAnswers.quiet with openAns := .bindFail })) =
      some ([[0x04]], { init := false, needsReset := false }, 5) := by decide

/-- 43_host_commands R204's example. -/
theorem test_shutdown_disconnects :
    see (fun t => (t.responses, t.status.init, t.calls)) (exec .shutdown ready) =
      some ([[0x00]], false, [.txSend aQ [0xAC, 0, 0, 0, 0, 0x05, 0] (.wrote 65542), .closeSocket .ok]) := by decide

/-- 43_host_commands R204: a partial send is reported before a close failure, and does not set NEEDS_RESET. -/
theorem test_shutdown_reports_first_error :
    see (fun t => (t.responses, t.status))
        (exec .shutdown (meets ready { sending [.wrote 6] with closeAns := .closeFail })) =
      some ([[0x07]], { init := false, needsReset := false }) := by decide

/-- 43_host_commands R205's example. -/
theorem test_recv_connect :
    see (fun t => (t.responses, t.sub.take 2))
        (exec .recv (meets ready (delivering 0 [(aA, [0xA5, 0, 0, 0, 0, 5, 0])] .wouldBlock))) =
      some ([[0x00]], [{ valid := true, addr := aQ, type := .drone }, { valid := true, addr := aA, type := .drone }]) := by
  decide

/-- 41_fragmentation R148: two fragments in reverse order are joined in index order under the last one's header. -/
theorem test_recv_reassembles :
    see (fun t => (t.iq.map (·.payload), t.iq.map (·.hdr.fragIndex), validKeys t.rs))
        (exec .recv (meets ready
          (delivering 0 [(aQ, droneFrame .push false 1 7 [0x43]), (aQ, droneFrame .push true 0 7 [0x41, 0x42])]
            .wouldBlock))) =
      some ([[0x41, 0x42, 0x43]], [1], []) := by decide

/-- 43_host_commands R207's example. -/
theorem test_getPackets_empty : see (·.responses) (exec .getPackets .reset) = some [[0x02]] := by decide

/-- 43_host_commands R208's example. -/
theorem test_push_appends :
    see (fun t => (t.responses, t.ob)) (exec (.push [0x43]) { State.reset with ob := [0x41, 0x42] }) =
      some ([[0x00]], [0x41, 0x42, 0x43]) := by decide

/-- 43_host_commands R208: one byte too many is refused whole (code 11). -/
theorem test_push_full :
    see (fun t => (t.responses, t.ob))
        (exec (.push [0x43, 0x44]) { State.resetWith { Config.params with obCap := 3 } with ob := [0x41, 0x42] }) =
      some ([[0x0B]], [0x41, 0x42]) := by decide

/-- 95_test_vectors T-F3: FRAG_SIZE 2, DRONE, version 5, counter 6, "HELLO". -/
theorem test_flush_fragments :
    see (fun t => (t.responses, t.ob, t.fragCtr, t.calls))
        (exec .flush { ready with params := { Config.params with fragSize := 2 }, fragCtr := 6
                                  cfg := { version := 5, port := 9000, type := .drone }
                                  ob := [0x48, 0x45, 0x4C, 0x4C, 0x4F] }) =
      some ([[0x00]], [], 7,
        [.txSend aQ [0xB1, 2, 0, 0, 7, 5, 0, 0x48, 0x45] (.wrote 65542),
         .txSend aQ [0xB1, 2, 0, 1, 7, 5, 0, 0x4C, 0x4C] (.wrote 65542),
         .txSend aQ [0xA1, 1, 0, 2, 7, 5, 0, 0x4F] (.wrote 65542)]) := by decide

/-- 43_host_commands R209: a FAIL ends the batch with code 8, sets NEEDS_RESET, and the data is not restored. -/
theorem test_flush_fails :
    see (fun t => (t.responses, t.ob, t.status.needsReset, t.calls.length))
        (exec .flush (meets { ready with params := { Config.params with fragSize := 2 }, ob := [1, 2, 3] }
          (sending [.fail]))) = some ([[0x08]], [], true, 1) := by decide

/-- 43_host_commands R210's example. -/
theorem test_send_one_frame :
    see (fun t => (t.fragCtr, t.calls)) (exec (.send [0x41, 0x42, 0x43]) { ready with fragCtr := 1 }) =
      some (2, [.txSend aQ [0xA0, 0x03, 0, 0, 0x02, 0x05, 0, 0x41, 0x42, 0x43] (.wrote 65542)]) := by decide

set_option maxRecDepth 10000 in
/-- 41_fragmentation R142 (FRAG_SIZE 1): 257 bytes need 257 frames, code 10, counter kept. -/
theorem test_send_too_long :
    see (fun t => (t.responses, t.fragCtr))
        (exec (.send (List.replicate 257 0)) { ready with params := { Config.params with fragSize := 1 } }) =
      some ([[0x0A]], 0) := by decide

/-- 43_host_commands R211's example: one 8-byte frame to an unregistered address. -/
theorem test_sendTo_one_frame :
    see (·.calls) (exec (.sendTo { ip := 0x0A000007, port := 9000 } [0x00]) ready) =
      some [.txSend { ip := 0x0A000007, port := 9000 } [0xA0, 1, 0, 0, 1, 5, 0, 0] (.wrote 65542)] := by decide

/-- 43_host_commands R212's example. -/
theorem test_sendCtrl_connect :
    see (fun t => (t.calls, pendAddrs t.pend))
        (exec (.sendCtrl 1 aP) { ready with cfg := { version := 5, port := 9000, type := .drone } }) =
      some ([.txSend aP [0xA5, 0, 0, 0, 0, 5, 0] (.wrote 65542)], [aP]) := by decide

/-- 43_host_commands R212: a partial send does not make the destination pending. -/
theorem test_sendCtrl_partial :
    see (fun t => (t.responses, pendAddrs t.pend)) (exec (.sendCtrl 1 aP) (meets ready (sending [.wrote 6]))) =
      some ([[0x07]], []) := by decide

/-- 43_host_commands R213's examples. -/
theorem test_isInitialized :
    see (·.responses) (exec .isInitialized .reset) = some [[0x00, 0x00]] ∧
      see (·.responses) (exec .isInitialized ready) = some [[0x00, 0x01]] := by decide

/-- 43_host_commands R214's example. -/
theorem test_needsReset : see (·.responses) (exec .needsReset ready.setNeedsReset) = some [[0x00, 0x01]] := by decide

/-- 43_host_commands R215's example. -/
theorem test_hasSubscribers :
    see (·.responses) (exec .hasSubscribers .reset) = some [[0x00, 0x00]] ∧
      see (·.responses) (exec .hasSubscribers ready) = some [[0x00, 0x01]] := by decide

/-- 42_registry R192's example, with Q the DRONE. -/
theorem test_regLookup :
    see (·.responses) (exec (.regLookup aQ) ready) = some [[0x00, 0x01, 0x01, 0x00]] ∧
      see (·.responses) (exec (.regLookup aP) ready) = some [[0x00, 0x00, 0x00, 0x00]] := by decide

/-- 40_header_codec R126's example. -/
theorem test_hdrEncode :
    see (·.responses) (exec (.hdrEncode 0 0 1 500 0 1 5) .reset) =
      some [[0x00, 0xB0, 0xF4, 0x01, 0x00, 0x01, 0x05, 0x00, 0x01, 0x00]] := by decide

/-- 95_test_vectors T-C2: `HDR_ENCODE 4, PUSH, 0, 1, 0, 0, 5`. -/
theorem test_hdrEncode_range : see (·.responses) (exec (.hdrEncode 4 0 0 1 0 0 5) .reset) = some [[0x0C]] := by decide

/-- 95_test_vectors T-C1, the little-endian check. -/
theorem test_hdrDecode :
    see (·.responses) (exec (.hdrDecode ⟨0xA3, 0x34, 0x12, 0, 0, 0x78, 0x56⟩) .reset) =
      some [[0, 3, 0, 0, 5, 0x34, 0x12, 0, 0, 0x78, 0x56, 1, 0]] := by decide

/-- 95_test_vectors T-C1: every bit set is pad 7, invalid. -/
theorem test_hdrDecode_bad_pad :
    see (·.responses) (exec (.hdrDecode ⟨0xFF, 0xFF, 0xFF, 0xFF, 0xFF, 0xFF, 0xFF⟩) .reset) =
      some [[0, 3, 3, 1, 7, 0xFF, 0xFF, 0xFF, 0xFF, 0xFF, 0xFF, 0, 0]] := by decide

/-- 42_registry R186's example: "HI" from Q. -/
theorem test_pushFrame :
    see (fun t => t.iq.map fun p => (p.sender, p.payload)) (exec (.pushFrame aQ (droneFields 2) [0x48, 0x49]) ready) =
      some [(aQ, [0x48, 0x49])] := by decide

/-- 42_registry R187's example. -/
theorem test_connectFrame :
    see (·.sub.head?) (exec (.connectFrame aA (droneFields 0) []) State.reset.setInit) =
      some (some { valid := true, addr := aA, type := .drone }) := by decide

/-- 42_registry R188's example: a pending peer of type GS. -/
theorem test_ackFrame :
    see (fun t => (pendAddrs t.pend, t.pub.head?))
        (exec (.ackFrame aP { droneFields 0 with type := .gs } [])
          { ready with pend := { valid := true, addr := aP } :: List.replicate 3 .empty }) =
      some ([], some { valid := true, addr := aP, type := .gs }) := by decide

/-- 42_registry R189's example. -/
theorem test_disconnectFrame :
    see (fun t => (validAddrs t.sub, validAddrs t.pub))
        (exec (.disconnectFrame aQ (droneFields 0) []) { ready with pub := ready.sub }) = some ([], []) := by decide

/-- 70_reset R290 and log 13: a power-on event, and an empty host port. -/
theorem test_power_on_and_idle :
    see (fun t => (t.status.init, validAddrs t.sub)) (step { ready with host := [.powerOn] }) = some (false, []) ∧
      see (·.responses) (step ready) = some [] := by decide

/-- The first instruction after reset from a word of spec/opcode_table.json: a command and a frame. -/
theorem test_table_words_run :
    decodeTableWord 8 0x10 = some .isInitialized ∧
      see (·.responses) (step (State.reset.withFetchWord 8 0x10)) = some [[0x00, 0x00]] ∧
      decodeTableWord 8 0xA4 =
        some (.connectFrame tableSender { droneFields 0 with type := .rover, protocolVersion := 0 } []) ∧
      see (fun t => validAddrs t.sub) (step (State.reset.withFetchWord 8 0xA4)) = some [tableSender] := by decide

/-! ### Hypotheses that something meets: one witness for each statement that has any -/

theorem witness_HeaderCodecRoundTrips :
    (⟨0xA0, 0, 0, 0, 0, 0, 0⟩ : Hdr7).b0.extractLsb' 5 3 = (0b101 : BitVec 3) ∧
      (⟨0xBF, 9, 9, 9, 9, 9, 9⟩ : Hdr7).b0.extractLsb' 5 3 = (0b101 : BitVec 3) ∧
      ((droneFields 0).header .ack).pad = (0b101 : BitVec 3) := by decide

theorem witness_PaddingSignatureIsChecked :
    (⟨0x9F, 0, 0, 0, 0, 0, 0⟩ : Hdr7).b0.toNat < 0xA0 ∧ 0xBF < (⟨0xC0, 0, 0, 0, 0, 0, 0⟩ : Hdr7).b0.toNat := by decide

theorem witness_DecodeOfEncode :
    (Instr.sendTo aQ [0x41]).wellFormed = true ∧ (Instr.sendTo aQ [0x41]).sender? = none ∧
      (Instr.pushFrame aQ (droneFields 1) [0x41]).wellFormed = true ∧
      (Instr.pushFrame aQ (droneFields 1) [0x41]).sender? = some aQ := by decide

theorem witness_EncodeOfDecode :
    decodeCommand [0x0A, 0x00, 0x0A, 0x00, 0x00, 0x01, 0x28, 0x23] = .ok (.sendCtrl 0 aP) ∧
      decodeDatagram aQ [0xA4, 0, 0, 0, 0, 0, 0, 0x77] =
        .ok (.connectFrame aQ { droneFields 0 with type := .rover, protocolVersion := 0 } []) := by decide

/-- A state with the message `m` next on the host port. -/
def waiting (m : Bytes) : State := { ready with host := [.command m .quiet] }

theorem witness_ReservedOpcodesAnswerBadOpcode :
    ((waiting []).host = [.command [] .quiet]) ∧
      ∀ op ∈ [(0x00 : Byte), 0x0B, 0x0F, 0x14, 0x1F, 0x22, 0xFF],
        (waiting [op]).host = [.command [op] .quiet] ∧
          (op.toNat = 0x00 ∨ (0x0B ≤ op.toNat ∧ op.toNat ≤ 0x0F) ∨ (0x14 ≤ op.toNat ∧ op.toNat ≤ 0x1F) ∨
            0x22 ≤ op.toNat) := by decide

/-- One message for each clause: a fixed length missed by one, a data length missed by one with too few and with too many
bytes, a data field that ends early, and an unlisted opcode. -/
theorem witness_WrongLengthsAnswerBadArgument :
    ((waiting [0x01, 5, 0, 0x28, 0x23]).host = [.command [0x01, 5, 0, 0x28, 0x23] .quiet] ∧
      1 + [5, 0, 0x28, (0x23 : Byte)].length ≠ 6) ∧
      [0x02, 0, 0, 0, (0x41 : Byte)].take 4 = le32 2 ∧ 1 + [0x02, 0, 0, 0, (0x41 : Byte)].length ≠ 5 + (2 : U32).toNat ∧
      1 + [0, 0, (0 : Byte)].length < 5 ∧ 1 + [0, 0, 0, 0, 0, 0, 0, 0, (0 : Byte)].length < 11 ∧
      ([0x0A, 0, 0, 7, 0x28, 0x23, 0, 0, 0, 0, (0x41 : Byte)].drop 6).take 4 = le32 0 ∧
      1 + [0x0A, 0, 0, 7, 0x28, 0x23, 0, 0, 0, 0, (0x41 : Byte)].length ≠ 11 + (0 : U32).toNat ∧
      (0x0B : Byte).toNat ∉
        [0x01, 0x02, 0x03, 0x04, 0x05, 0x06, 0x07, 0x08, 0x09, 0x0A, 0x10, 0x11, 0x12, 0x13, 0x20, 0x21] := by decide

theorem witness_StepRunsDecodedCommand :
    (waiting [0x07]).host = [.command [0x07] .quiet] ∧ decodeCommand [0x07] = .ok .flush ∧ ready.host = [] := by decide

theorem witness_StepRunsReceivedFrame :
    (Instr.ackFrame aQ (droneFields 0) []).sender? = some aQ ∧
      (delivering 0 [(aQ, encode (.ackFrame aQ (droneFields 0) []))] .wouldBlock).arrivals =
        [(aQ, encode (.ackFrame aQ (droneFields 0) []))] ∧
      (delivering 0 [(aQ, encode (.ackFrame aQ (droneFields 0) []))] .wouldBlock).rxEnd = .wouldBlock := by decide

theorem witness_RegLookupResponds :
    ready.RegistryInv ∧ aQ ∈ validAddrs ready.sub ∧ aQ ∉ validAddrs ready.pub ∧ aP ∉ validAddrs ready.sub := by decide

theorem witness_InitOpensAndConfigures :
    3 < (4 : Byte).toNat ∧ ready.status.init = true ∧ (3 : Byte).toNat = NodeType.gs.bits.toNat ∧
      (0 : Byte).toNat = NodeType.rover.bits.toNat ∧ State.reset.status.init = false := by decide

theorem witness_ResetReopensAndKeepsTheRest :
    3 < (4 : Byte).toNat ∧ (3 : Byte).toNat = NodeType.gs.bits.toNat ∧ ready.status.init = true ∧
      State.reset.status.init = false := by decide

theorem witness_ShutdownDisconnectsAndCloses :
    State.reset.status.init = false ∧ ready.status.init = true ∧ subscriberAddrs ready = [aQ] := by decide

theorem witness_RecvRunsOneCycle :
    State.reset.status.init = false ∧ ready.status.init = true ∧
      (meets ready (delivering 0 [] .wouldBlock)).env.rxEnd = .wouldBlock ∧
      (meets ready (delivering 0 [] .error)).env.rxEnd = .error := by decide

theorem witness_RecvHangsOnEndlessDatagrams :
    (meets ready (delivering 0 [] .endless)).status.init = true ∧
      (meets ready (delivering 0 [] .endless)).env.rxEnd = .endless := by decide

theorem witness_RecvDeliversPushesInOrder :
    let s := meets ready (delivering 0 [(aQ, droneFrame .push false 0 0 [0x41]), (aQ, [])] .wouldBlock)
    s.status.init = true ∧ s.env.rxEnd = .wouldBlock ∧ s.iq.length ≤ s.params.iqCap ∧
      (acceptedMembers s.env.arrivals).length = 1 ∧
      ∀ m ∈ acceptedMembers s.env.arrivals, m.hdr.fragRef = 0 ∧ m.hdr.req = .push := by decide

/-- A slot that holds one fragment of reference 9, stamped `ts`. -/
def oneHeld (ts : U32) : Slot :=
  { valid := true, key := 9, ts := ts, members := [fragment true 0 9 [0x61, 0x62]] }

/-- An initialised block with that group in slot 0. -/
def holding (ts : U32) : State := { ready with rs := oneHeld ts :: List.replicate 3 .empty }

/-- Age exactly STALE_MS = 1000 survives (41_fragmentation R151). -/
theorem witness_RecvEvictsExactlyStaleGroups :
    let s := meets (holding 500) (delivering 1500 [(aQ, droneFrame .push true 0 7 [0x41])] .wouldBlock)
    s.status.init = true ∧ s.env.rxEnd = .wouldBlock ∧ s.rs[0]? = some (oneHeld 500) ∧
      (∀ m ∈ acceptedMembers s.env.arrivals, m.hdr.fragRef ≠ (oneHeld 500).key) ∧
      (s.env.now - (oneHeld 500).ts).toNat ≤ s.params.staleMs.toNat := by decide

/-- The example of 41_fragmentation R151: the group survives at age 1000 and is evicted at age 1001. -/
theorem test_eviction_is_strict :
    see (fun t => validKeys t.rs) (exec .recv (meets (holding 0) (delivering 1000 [] .wouldBlock))) = some [9] ∧
      see (fun t => validKeys t.rs) (exec .recv (meets (holding 0) (delivering 1001 [] .wouldBlock))) = some [] := by
  decide

/-- The packet of 42_registry R186's example. -/
def packetHI : Packet := { fragment false 0 0 [0x48, 0x49] with sender := aQ }

theorem witness_GetPacketsDrainsQueue : State.reset.iq = [] ∧ { ready with iq := [packetHI] }.iq ≠ [] := by decide

theorem witness_RecordReproducesReceivedHeader :
    ∃ h p, parseDatagram [0xA1, 0x01, 0x00, 0x02, 0x07, 0x05, 0x00, 0x4F, 0x99] = some (h, p) := ⟨_, _, rfl⟩

theorem witness_InvalidFramesAreDropped :
    ready.status.init = true ∧
      ({ droneFields 0 with moreFrag := true }.moreFrag = true ∧ { droneFields 0 with moreFrag := true }.fragRef = 0) ∧
      ([] : Bytes).length < (droneFields 1).payloadLength.toNat ∧ (droneFields 0).payloadLength = 0 := by decide

theorem witness_PushFrameIsDelivered :
    ready.status.init = true ∧ (droneFields 1).fragRef = 0 ∧ (droneFields 1).moreFrag = false ∧
      (droneFields 1).payloadLength ≠ 0 ∧ (droneFields 1).payloadLength.toNat ≤ [(0x41 : Byte)].length := by decide

theorem witness_ControlFrames :
    ready.status.init = true ∧ (droneFields 0).fragRef = 0 ∧ (droneFields 0).moreFrag = false ∧
      (droneFields 0).payloadLength.toNat ≤ ([] : Bytes).length := by decide

theorem witness_OneFragmentMessageCompletesAtOnce :
    let f := { droneFields 1 with fragRef := 9 }
    ready.status.init = true ∧ 1 ≤ ready.params.groupMax ∧ f.fragRef ≠ 0 ∧ f.moreFrag = false ∧ f.fragIndex = 0 ∧
      f.payloadLength ≠ 0 ∧ f.payloadLength.toNat ≤ [(0x5A : Byte)].length ∧
      findGroup ready.rs f.fragRef = none ∧ freeSlot ready.rs = some 0 := by decide

theorem witness_FragmentFramesAreRouted :
    let f := { droneFields 1 with fragRef := 9, moreFrag := true }
    ready.status.init = true ∧ f.fragRef ≠ 0 ∧ f.payloadLength ≠ 0 ∧
      f.payloadLength.toNat ≤ [(0x5A : Byte)].length := by decide

theorem witness_FindComparesAddresses :
    (validAddrs ready.sub).Nodup ∧ findEntry ready.sub aQ = some 0 ∧ findEntry ready.sub aP = none ∧
      (pendAddrs ready.pend).Nodup := by decide

/-- A table of two with Q in entry 0 and entry 1 free, and the same table full. -/
def halfFull : List Entry := [{ valid := true, addr := aQ, type := .drone }, .empty]
def allFull : List Entry := [{ valid := true, addr := aQ, type := .drone }, { valid := true, addr := aR, type := .gs }]

theorem witness_UpsertUpdatesInsertsOrDrops :
    (validAddrs halfFull).Nodup ∧ (validAddrs allFull).Nodup ∧ (∃ e, halfFull[0]? = some e ∧ e.valid = true ∧ e.addr = aQ) ∧
      (aP ∉ validAddrs allFull ∧ ∀ e ∈ allFull, e.valid = true) ∧
      (aP ∉ validAddrs halfFull ∧ halfFull[1]? = some .empty ∧ Entry.empty.valid = false) := by decide

/-- The entries before entry 1 of `halfFull` are valid: it is the lowest free one. -/
theorem witness_lowest_free_entry : ∀ i e, i < 1 → halfFull[i]? = some e → e.valid = true := by
  intro i e hi he
  obtain rfl : i = 0 := by omega
  cases he
  rfl

/-- A pending table with P in entry 0 and entry 1 free, and a full one. -/
def halfPend : List PendEntry := [{ valid := true, addr := aP }, .empty]
def allPend : List PendEntry := [{ valid := true, addr := aP }]

theorem witness_PendInsertKeepsInsertsOrDrops :
    aP ∈ pendAddrs halfPend ∧ (aQ ∉ pendAddrs allPend ∧ ∀ e ∈ allPend, e.valid = true) ∧
      (aQ ∉ pendAddrs halfPend ∧ halfPend[1]? = some .empty ∧ PendEntry.empty.valid = false) := by decide

theorem witness_RemoveClearsValid :
    (validAddrs halfFull).Nodup ∧ aQ ∈ validAddrs halfFull ∧ aP ∉ validAddrs halfFull ∧ (pendAddrs halfPend).Nodup ∧
      aP ∈ pendAddrs halfPend ∧ aQ ∉ pendAddrs halfPend := by decide

/-- Each of the three departures happens. -/
theorem witness_PeersLeaveOnlyByTheirOwnFrames :
    let s := { ready with pub := ready.sub, pend := halfPend }
    let bye : Packet := { sender := aQ, hdr := (droneFields 0).header .disconnect, payload := [] }
    let ack : Packet := { sender := aP, hdr := (droneFields 0).header .ack, payload := [] }
    (aQ ∈ validAddrs s.sub ∧ aQ ∉ validAddrs (applyPacket s bye).sub) ∧
      (aQ ∈ validAddrs s.pub ∧ aQ ∉ validAddrs (applyPacket s bye).pub) ∧
      (aP ∈ pendAddrs s.pend ∧ aP ∉ pendAddrs (applyPacket s ack).pend) := by decide

theorem witness_ReferencesCycleWithoutZero : (254 : Byte) ≠ 255 ∧ (1 : Byte) ≠ 0 ∧ (255 : Byte) ≠ 0 := by decide

theorem witness_FragCountIsCeiling :
    Config.params.Legal ∧ ready.status.init = true ∧
      { ready with params := { Config.params with fragSize := 1, obCap := 256 } }.params.Legal ∧
      256 * { Config.params with fragSize := 1, obCap := 256 }.fragSize < (List.replicate 257 (0 : Byte)).length :=
  ⟨by decide, rfl, by decide, by rw [List.length_replicate]; decide⟩

theorem witness_PrepareFragSplitsPayload :
    ready.params.Legal ∧ ([] : Bytes).length ≤ 256 * ready.params.fragSize ∧ [(0x41 : Byte)] ≠ [] ∧
      [(0x41 : Byte)].length ≤ 256 * ready.params.fragSize := by decide

/-- An initialised block whose two groups leave no slot free. -/
def storeFull : State := { ready with rs := [oneHeld 0, { oneHeld 0 with key := 8, members := [fragment true 0 8 [1]] }] }

theorem witness_FragmentOpensGroup :
    1 ≤ storeFull.params.groupMax ∧ (∀ g ∈ storeFull.rs, g.valid = true → g.key ≠ (fragment true 0 7 [1]).hdr.fragRef) ∧
      (∀ g ∈ storeFull.rs, g.valid = true) ∧
      (∀ g ∈ (holding 0).rs, g.valid = true → g.key ≠ (fragment true 0 7 [1]).hdr.fragRef) ∧
      (holding 0).rs[1]? = some .empty ∧ Slot.empty.valid = false ∧ (fragment true 0 7 [1]).hdr.moreFrag = true ∧
      (fragment false 1 7 [1]).hdr.fragIndex ≠ 0 := by decide

/-- Slot 1 of `holding` is the lowest free one. -/
theorem witness_lowest_free_slot (ts : U32) : ∀ i g, i < 1 → (holding ts).rs[i]? = some g → g.valid = true := by
  intro i g hi hg
  obtain rfl : i = 0 := by omega
  cases hg
  rfl

/-- A group that its second member does not complete, at age exactly STALE_MS; and a group that is full. -/
theorem witness_FragmentJoinsGroup :
    (validKeys (holding 0).rs).Nodup ∧ (holding 0).rs[0]? = some (oneHeld 0) ∧ (oneHeld 0).valid = true ∧
      (oneHeld 0).key = (fragment true 1 9 [1]).hdr.fragRef ∧
      ((1000 : U32) - (oneHeld 0).ts).toNat ≤ (holding 0).params.staleMs.toNat ∧
      (oneHeld 0).members.length ≠ (holding 0).params.groupMax ∧
      (oneHeld 0).members.length = { Config.params with groupMax := 1 }.groupMax := by decide

/-- That group has no terminal member, so nothing completes it. -/
theorem witness_no_terminal_member :
    ∀ pre x post, (oneHeld 0).members ++ [fragment true 1 9 [1]] = pre ++ x :: post → x.hdr.moreFrag = false →
      (∀ y ∈ pre, y.hdr.moreFrag = true) → (oneHeld 0).members.length + 1 ≠ x.hdr.fragIndex.toNat + 1 := by
  intro pre x post h hx _
  have hm : x ∈ (oneHeld 0).members ++ [fragment true 1 9 [1]] := by rw [h]; simp
  have hall : ∀ y ∈ (oneHeld 0).members ++ [fragment true 1 9 [1]], y.hdr.moreFrag = true := by decide
  rw [hall x hm] at hx
  cases hx

/-- The terminal fragment with index 1 completes the group; the sorted members are the members in arrival order. -/
theorem witness_FragmentCompletesGroup :
    let m := fragment false 1 9 [0x63]
    let sorted := (oneHeld 0).members ++ [m]
    (validKeys (holding 0).rs).Nodup ∧ (holding 0).rs[0]? = some (oneHeld 0) ∧ (oneHeld 0).key = m.hdr.fragRef ∧
      ((0 : U32) - (oneHeld 0).ts).toNat ≤ (holding 0).params.staleMs.toNat ∧
      (oneHeld 0).members.length ≠ (holding 0).params.groupMax ∧
      (oneHeld 0).members ++ [m] = (oneHeld 0).members ++ m :: [] ∧ m.hdr.moreFrag = false ∧
      (∀ y ∈ (oneHeld 0).members, y.hdr.moreFrag = true) ∧
      (oneHeld 0).members.length + 1 = m.hdr.fragIndex.toNat + 1 ∧
      sorted.Pairwise (fun a b => a.hdr.fragIndex.toNat ≤ b.hdr.fragIndex.toNat) ∧ sorted.getLast? = some m := by decide

/-- Age 1001 is stale (41_fragmentation R151). -/
theorem witness_StaleGroupIsDiscardedOnLookup :
    (validKeys (holding 0).rs).Nodup ∧ (holding 0).rs[0]? = some (oneHeld 0) ∧ (oneHeld 0).valid = true ∧
      (oneHeld 0).key = (fragment true 0 9 [1]).hdr.fragRef ∧
      (holding 0).params.staleMs.toNat < ((1001 : U32) - (oneHeld 0).ts).toNat := by decide

/-- Two frames of "abc" (FRAG_SIZE 2), fed in reverse order 1000 ms apart. -/
theorem witness_ReassemblyRestoresPayload :
    let sndr := { ready with params := { Config.params with fragSize := 2, obCap := 512 } }
    let b : Bytes := [0x61, 0x62, 0x63]
    let feed : List (Bytes × U32) :=
      [([0xA0, 1, 0, 1, 1, 5, 0, 0x63], 0), ([0xB0, 2, 0, 0, 1, 5, 0, 0x61, 0x62], 1000)]
    sndr.params.Legal ∧ b ≠ [] ∧ b.length ≤ 256 * sndr.params.fragSize ∧
      (feed.map Prod.fst).Perm (prepareFrag b sndr).1 ∧
      feed.IsChain (fun x y => (y.2 - x.2).toNat ≤ ready.params.staleMs.toNat) ∧
      (prepareFrag b sndr).1.length ≤ ready.params.groupMax ∧
      (∀ g ∈ ready.rs, g.valid = true → g.key ≠ nextRef sndr.fragCtr) ∧ ∃ g ∈ ready.rs, g.valid = false := by decide

theorem witness_FlushSendsBuffer :
    ready.params.Legal ∧ ready.status.init = true ∧ State.reset.params.Legal ∧ State.reset.status.init = false := by decide

theorem witness_SendSendsToSubscribers :
    State.reset.status.init = false ∧ ready.params.Legal ∧ ready.status.init = true ∧ [(0x41 : Byte)].length ≤ 256 * ready.params.fragSize := by decide

theorem witness_SendToSendsToOneAddress :
    State.reset.status.init = false ∧ ready.params.Legal ∧ ready.status.init = true ∧ ([] : Bytes).length ≤ 256 * ready.params.fragSize := by decide

theorem witness_SendCtrlSendsControlFrame :
    3 < (4 : Byte).toNat ∧ ((1 : Byte) ≠ 0 ∧ (1 : Byte).toNat ≤ 3) ∧ ((3 : Byte) ≠ 0 ∧ (3 : Byte).toNat ≤ 3) ∧
      State.reset.status.init = false ∧ ready.status.init = true := by decide

theorem witness_SocketCommandsNeedInit :
    State.reset.status.init = false ∧ (Instr.pushFrame aQ (droneFields 1) [1]).sender? = some aQ ∧
      ((1 : Byte) ≠ 0 ∧ (1 : Byte).toNat ≤ 3) := by decide

/-- SEND before INIT: code 9. -/
theorem witness_PrologueCodesChangeNothing :
    ∃ t, exec (.send [0x41]) State.reset = .next t ∧ t.responses = State.reset.responses ++ [[9]] ∧
      9 ≤ (9 : Byte).toNat := ⟨_, rfl, by decide, by decide⟩

theorem witness_NeedsResetWriteDiscipline :
    (∃ t, exec (.reset 5 9000 0) ready.setNeedsReset = .next t) ∧
      ∃ t, exec .shutdown (meets ready (sending [.fail])) = .next t := ⟨⟨_, rfl⟩, ⟨_, rfl⟩⟩

theorem witness_OnlyTheirWritersChangeFields : ∃ t, exec .flush ready = .next t := ⟨_, rfl⟩

theorem witness_OneResponsePerMessage :
    (waiting [0x04]).host = [.command [0x04] .quiet] ∧ ∃ t, step (waiting [0x04]) = .next t := ⟨rfl, _, rfl⟩

/-- Two states that differ in the address an invalid entry holds. -/
theorem witness_InvalidContentsAreNeverRead :
    ready.params.Legal ∧
      ready.Same { ready with pend := { valid := false, addr := aP } :: List.replicate 3 .empty } := by
  refine ⟨by decide, ?_, ?_, ?_, ?_, rfl⟩
  · exact List.forall₂_same.2 fun g _ => ⟨rfl, fun _ => rfl⟩
  · exact List.forall₂_same.2 fun g _ => ⟨rfl, fun _ => rfl⟩
  · exact List.forall₂_same.2 fun g _ => ⟨rfl, fun _ => rfl⟩
  · exact .cons ⟨rfl, fun h => by cases h⟩ (List.forall₂_same.2 fun g _ => ⟨rfl, fun _ => rfl⟩)

/-- The premises of the three statements about every step: a state with a subscriber, a group and a queued packet. -/
theorem witness_StepKeepsInvariant :
    let s := { holding 0 with iq := [packetHI], host := [.command [0x04] .quiet] }
    s.Inv ∧ s.RegistryInv ∧ s.params.Legal ∧ s.StoreInv ∧ (see (·.responses) (step s)).isSome = true := by decide

theorem witness_ResetMeetsInvariant : Config.params.Legal := by decide

end Sys2Proof.Tests
end

section
/-! PROOFS of the family 30_encoding (O7, O8): which messages the decoder refuses, with which reason, and how the step
answers a refused message. -/
namespace Sys2Proof.Machine

/-! ### The step on a message that is no command -/

/-- A refused message leaves the host port and is answered with its reason's code; no state field of the block changes
(43_host_commands R200 steps 1 and 2). -/
theorem step_of_decodeCommand_error {s : State} {message : Bytes} {answers : PortAnswers} {rest : List HostEvent}
    {e : MsgReject} (hhost : s.host = .command message answers :: rest) (hdec : decodeCommand message = .error e) :
    step s = .next { s with host := rest, env := answers, responses := s.responses ++ [[(rejectCode e).byte]] } := by
  unfold step
  rw [hhost]
  simp only [hdec]
  rfl

/-! ### The opcode check -/

/-- The opcodes of the host commands (30_encoding R89). -/
def listedOpcodes : List Nat :=
  [0x01, 0x02, 0x03, 0x04, 0x05, 0x06, 0x07, 0x08, 0x09, 0x0A, 0x10, 0x11, 0x12, 0x13, 0x20, 0x21]

/-- The opcode is looked at before the length (30_encoding R92). -/
theorem decodeCommand_of_unlisted {op : Byte} (h : op.toNat ∉ listedOpcodes) (operands : Bytes) :
    decodeCommand (op :: operands) = .error .badOpcode := by
  unfold decodeCommand
  dsimp only
  split
  case h_17 => rfl
  all_goals exact absurd (by simp [listedOpcodes, *]) h

/-! ### Operands of a fixed length -/

theorem noOperands_of_length_ne (i : Instr) {operands : Bytes} (h : operands.length ≠ 0) :
    noOperands i operands = .error .badLength := by
  unfold noOperands
  split
  · exact absurd rfl h
  · rfl

theorem lifecycleOperands_of_length_ne (mk : U16 → U16 → Byte → Instr) {operands : Bytes} (h : operands.length ≠ 5) :
    lifecycleOperands mk operands = .error .badLength := by
  unfold lifecycleOperands
  split
  · exact absurd rfl h
  · rfl

theorem sendCtrlOperands_of_length_ne {operands : Bytes} (h : operands.length ≠ 7) :
    sendCtrlOperands operands = .error .badLength := by
  unfold sendCtrlOperands
  split
  · exact absurd rfl h
  · rfl

theorem regLookupOperands_of_length_ne {operands : Bytes} (h : operands.length ≠ 6) :
    regLookupOperands operands = .error .badLength := by
  unfold regLookupOperands
  split
  · exact absurd rfl h
  · rfl

theorem hdrEncodeOperands_of_length_ne {operands : Bytes} (h : operands.length ≠ 9) :
    hdrEncodeOperands operands = .error .badLength := by
  unfold hdrEncodeOperands
  split
  · exact absurd rfl h
  · rfl

theorem hdrDecodeOperands_of_length_ne {operands : Bytes} (h : operands.length ≠ 7) :
    hdrDecodeOperands operands = .error .badLength := by
  unfold hdrDecodeOperands
  split
  · exact absurd rfl h
  · rfl

/-! ### `Bytes` operands -/

/-- `operands` is no `Bytes` operand (30_encoding R87): its length field ends early or disagrees with the bytes after
it. -/
def BytesMismatch (operands : Bytes) : Prop :=
  operands.length < 4 ∨ ∃ n : U32, operands.take 4 = le32 n ∧ operands.length ≠ 4 + n.toNat

theorem bytesOperand_of_mismatch {operands : Bytes} (h : BytesMismatch operands) : bytesOperand operands = none := by
  unfold bytesOperand
  split
  next n0 n1 n2 n3 data =>
    obtain hshort | ⟨n, hfield, hlen⟩ := h
    · simp only [List.length_cons] at hshort
      omega
    · have hn : rd32 n0 n1 n2 n3 = n := by
        obtain ⟨rfl, rfl, rfl, rfl⟩ : n0 = byteOf n 0 ∧ n1 = byteOf n 1 ∧ n2 = byteOf n 2 ∧ n3 = byteOf n 3 := by
          simpa [le32] using hfield
        exact rd32_byteOf n
      rw [hn, if_neg]
      simp only [List.length_cons] at hlen
      omega
  next => rfl

theorem dataOperand_of_mismatch (mk : Bytes → Instr) {operands : Bytes} (h : BytesMismatch operands) :
    dataOperand mk operands = .error .badLength := by
  simp only [dataOperand, bytesOperand_of_mismatch h]

/-- The `Bytes` operand of SEND_TO follows an Addr of six bytes (30_encoding R90). -/
theorem sendToOperands_of_mismatch {operands : Bytes} (h : BytesMismatch (operands.drop 6)) :
    sendToOperands operands = .error .badLength := by
  unfold sendToOperands
  split
  · exact dataOperand_of_mismatch _ h
  · rfl

/-! ### The length check of a message -/

/-- The opcodes whose message has one length, with that length (30_encoding R90). -/
def fixedLengths : List (Nat × Nat) :=
  [(0x01, 6), (0x02, 6), (0x03, 1), (0x04, 1), (0x05, 1), (0x07, 1), (0x0A, 8), (0x10, 1), (0x11, 1), (0x12, 1),
    (0x13, 7), (0x20, 10), (0x21, 8)]

theorem decodeCommand_of_fixedLength_ne {op : Byte} {operands : Bytes} {n : Nat} (hop : (op.toNat, n) ∈ fixedLengths)
    (hlen : 1 + operands.length ≠ n) : decodeCommand (op :: operands) = .error .badLength := by
  simp only [fixedLengths, List.mem_cons, Prod.mk.injEq, List.not_mem_nil, or_false] at hop
  unfold decodeCommand
  rcases hop with ⟨hop, rfl⟩ | ⟨hop, rfl⟩ | ⟨hop, rfl⟩ | ⟨hop, rfl⟩ | ⟨hop, rfl⟩ | ⟨hop, rfl⟩ | ⟨hop, rfl⟩ |
    ⟨hop, rfl⟩ | ⟨hop, rfl⟩ | ⟨hop, rfl⟩ | ⟨hop, rfl⟩ | ⟨hop, rfl⟩ | ⟨hop, rfl⟩ <;>
  simp (disch := omega) only [hop, noOperands_of_length_ne, lifecycleOperands_of_length_ne,
    sendCtrlOperands_of_length_ne, regLookupOperands_of_length_ne, hdrEncodeOperands_of_length_ne,
    hdrDecodeOperands_of_length_ne]

theorem decodeCommand_of_data_mismatch {op : Byte} {operands : Bytes} (hop : op.toNat = 0x06 ∨ op.toNat = 0x08)
    (h : BytesMismatch operands) : decodeCommand (op :: operands) = .error .badLength := by
  unfold decodeCommand
  rcases hop with hop | hop <;> simp only [hop, dataOperand_of_mismatch _ h]

theorem decodeCommand_of_sendTo_mismatch {op : Byte} {operands : Bytes} (hop : op.toNat = 0x09)
    (h : BytesMismatch (operands.drop 6)) : decodeCommand (op :: operands) = .error .badLength := by
  unfold decodeCommand
  simp only [hop, sendToOperands_of_mismatch h]

/-! ### The obligations -/

/-- Settles O7: a reserved opcode is unlisted, the decoder refuses it and the empty message with BAD_OPCODE, and the step
answers a refused message with its code alone. -/
theorem reservedOpcodesAnswerBadOpcode : Obligations.ReservedOpcodesAnswerBadOpcode := by
  intro s message answers rest hhost hmessage
  have hdec : decodeCommand message = .error .badOpcode := by
    obtain rfl | ⟨op, operands, rfl, hop⟩ := hmessage
    · rfl
    · refine decodeCommand_of_unlisted ?_ operands
      simp only [listedOpcodes, List.mem_cons, List.not_mem_nil, or_false]
      omega
  exact step_of_decodeCommand_error hhost hdec

/-- Settles O8: a listed opcode with another length than its own is refused by its operand reader, in each of the three
clauses, and an unlisted one before its length is looked at. -/
theorem wrongLengthsAnswerBadArgument : Obligations.WrongLengthsAnswerBadArgument := by
  intro s op operands answers rest hhost
  refine ⟨fun hwrong => ?_, fun hop => step_of_decodeCommand_error hhost (decodeCommand_of_unlisted hop operands)⟩
  have hdec : decodeCommand (op :: operands) = .error .badLength := by
    obtain ⟨n, hop, hlen⟩ | ⟨hop, hdata⟩ | ⟨hop, hdata⟩ := hwrong
    · exact decodeCommand_of_fixedLength_ne hop hlen
    · refine decodeCommand_of_data_mismatch (by simpa using hop) ?_
      exact hdata.imp (fun _ => by omega) fun ⟨n, hfield, _⟩ => ⟨n, hfield, by omega⟩
    · refine decodeCommand_of_sendTo_mismatch hop ?_
      have hdrop : (operands.drop 6).length = operands.length - 6 := List.length_drop
      exact hdata.imp (fun _ => by omega) fun ⟨n, hfield, _⟩ => ⟨n, hfield, by omega⟩
  exact step_of_decodeCommand_error hhost hdec

end Sys2Proof.Machine
end

section
/-! PROOFS of the family 40_header_codec (O1, O13, O14): byte 0 as a row of bit fields, the two flags a codec command
answers, and which operands of HDR_ENCODE stand for a field. -/
namespace Sys2Proof.Machine

/-! ### Byte 0 as a row of bit fields (30_encoding R81, R82) -/

theorem headerByte0_eq_append (h : Header) :
    headerByte0 h = padSignature ++ BitVec.ofBool h.moreFrag ++ h.req.bits ++ h.type.bits := by
  have hbits : ∀ (more : Bool) (req type : BitVec 2),
      (0xA0 : Byte) ||| (flagByte more <<< 4) ||| (req.setWidth 8 <<< 2) ||| type.setWidth 8 =
        padSignature ++ BitVec.ofBool more ++ req ++ type := by decide
  exact hbits h.moreFrag h.req.bits h.type.bits

/-- A byte is its four header fields side by side. -/
theorem append_fields_eq (b : Byte) :
    b.extractLsb' 5 3 ++ BitVec.ofBool (b.getLsbD 4) ++ b.extractLsb' 2 2 ++ b.extractLsb' 0 2 = b := by
  apply BitVec.eq_of_getLsbD_eq
  intro i hi
  simp only [BitVec.getLsbD_append, BitVec.getLsbD_extractLsb', BitVec.getLsbD_ofBool]
  grind

/-- The four header fields of a byte that was put together from them. -/
theorem fields_append_eq (pad : BitVec 3) (more : Bool) (req type : BitVec 2) :
    let b : Byte := pad ++ BitVec.ofBool more ++ req ++ type
    b.extractLsb' 0 2 = type ∧ b.extractLsb' 2 2 = req ∧ b.getLsbD 4 = more ∧ b.extractLsb' 5 3 = pad := by
  refine ⟨?_, ?_, ?_, ?_⟩
  case refine_3 =>
    simp only [BitVec.getLsbD_append, BitVec.getLsbD_ofBool]
    grind
  all_goals
    apply BitVec.eq_of_getLsbD_eq
    intro i hi
    simp only [BitVec.getLsbD_extractLsb', BitVec.getLsbD_append]
    grind

theorem headerByte0_decodeHeader {b : Hdr7} (hpad : b.b0.extractLsb' 5 3 = padSignature) :
    headerByte0 (decodeHeader b) = b.b0 := by
  rw [headerByte0_eq_append, ← hpad]
  simp only [decodeHeader, Req.bits_ofBits, NodeType.bits_ofBits]
  exact append_fields_eq b.b0

/-! ### Encode and Decode -/

/-- The seven bytes of Encode as a `Hdr7`. -/
def headerHdr7 (h : Header) : Hdr7 :=
  ⟨headerByte0 h, byteOf h.payloadLength 0, byteOf h.payloadLength 1, h.fragIndex, h.fragRef,
    byteOf h.protocolVersion 0, byteOf h.protocolVersion 1⟩

theorem encodeHeader_eq_hdr7Bytes (h : Header) : encodeHeader h = hdr7Bytes (headerHdr7 h) := rfl

/-- 40_header_codec R128 (c). -/
theorem decodeHeader_headerHdr7 (h : Header) : decodeHeader (headerHdr7 h) = { h with pad := padSignature } := by
  obtain ⟨htype, hreq, hmore, hpad⟩ := fields_append_eq padSignature h.moreFrag h.req.bits h.type.bits
  simp only [decodeHeader, headerHdr7, headerByte0_eq_append, htype, hreq, hmore, hpad, NodeType.ofBits_bits,
    Req.ofBits_bits, rd16_byteOf]

/-- 40_header_codec R128 (a). -/
theorem encodeHeader_decodeHeader {b : Hdr7} (hpad : b.b0.extractLsb' 5 3 = padSignature) :
    encodeHeader (decodeHeader b) = hdr7Bytes b := by
  rw [encodeHeader, headerByte0_decodeHeader hpad]
  simp only [decodeHeader, byteOf_rd16_zero, byteOf_rd16_one, hdr7Bytes]

/-! ### The two flags, read off the field numbers (40_header_codec R122, R123) -/

theorem flagByte_eq_setWidth (b : Bool) : flagByte b = (BitVec.ofBool b).setWidth 8 := by cases b <;> rfl

theorem flagByte_eq_zero {b : Bool} : flagByte b = 0 ↔ b = false := by cases b <;> decide

theorem reqBits_setWidth_eq_zero {r : Req} : r.bits.setWidth 8 = (0 : Byte) ↔ r = .push := by cases r <;> decide

theorem pad_setWidth_eq_five {p : BitVec 3} : p.setWidth 8 = (5 : Byte) ↔ p = padSignature := by revert p; decide

theorem rd16_eq_zero {a b : Byte} : rd16 a b = 0 ↔ a = 0 ∧ b = 0 := by
  constructor
  · intro h
    constructor
    · rw [← byteOf_rd16_zero a b, h]; rfl
    · rw [← byteOf_rd16_one a b, h]; rfl
  · rintro ⟨rfl, rfl⟩
    decide

theorem validity_iff {h : Header} :
    validity h = true ↔
      (h.req.bits.setWidth 8 ≠ (0 : Byte) ∨ h.payloadLength ≠ 0) ∧ (flagByte h.moreFrag = 0 ∨ h.fragRef ≠ 0) ∧
        h.pad.setWidth 8 = (5 : Byte) := by
  rw [Ne, reqBits_setWidth_eq_zero, flagByte_eq_zero, pad_setWidth_eq_five]
  simp [validity, and_assoc]

theorem lastFrag_iff {h : Header} : lastFrag h = true ↔ flagByte h.moreFrag = 0 ∧ h.fragRef ≠ 0 := by
  rw [flagByte_eq_zero]
  simp [lastFrag]

theorem flagByte_eq_ite {b : Bool} {p : Prop} [Decidable p] (h : b = true ↔ p) :
    flagByte b = if p then 1 else 0 := by
  simp only [flagByte, h]

/-! ### The operands of HDR_ENCODE (43_host_commands R200 step 3) -/

theorem nodeTypeOperand_bits (t : NodeType) : nodeTypeOperand (t.bits.setWidth 8) = some t := by cases t <;> rfl

theorem reqOperand_bits (r : Req) : reqOperand (r.bits.setWidth 8) = some r := by cases r <;> rfl

theorem moreFragOperand_flagByte (m : Bool) : moreFragOperand (flagByte m) = some m := by cases m <;> rfl

theorem exists_two_bits {b : Byte} (h : b.toNat ≤ 3) : ∃ x : BitVec 2, x.setWidth 8 = b :=
  ⟨b.setWidth 2, BitVec.eq_of_toNat_eq (by simp only [BitVec.toNat_setWidth]; omega)⟩

theorem exists_nodeType {b : Byte} (h : b.toNat ≤ 3) : ∃ t : NodeType, t.bits.setWidth 8 = b := by
  obtain ⟨x, rfl⟩ := exists_two_bits h
  exact ⟨.ofBits x, by rw [NodeType.bits_ofBits]⟩

theorem exists_req {b : Byte} (h : b.toNat ≤ 3) : ∃ r : Req, r.bits.setWidth 8 = b := by
  obtain ⟨x, rfl⟩ := exists_two_bits h
  exact ⟨.ofBits x, by rw [Req.bits_ofBits]⟩

theorem exists_flag {b : Byte} (h : b.toNat ≤ 1) : ∃ m : Bool, flagByte m = b := by
  obtain hb | hb : b.toNat = 0 ∨ b.toNat = 1 := by omega
  · exact ⟨false, BitVec.eq_of_toNat_eq hb.symm⟩
  · exact ⟨true, BitVec.eq_of_toNat_eq hb.symm⟩

theorem exec_hdrEncode (t r m : Byte) (l : U16) (i f : Byte) (v : U16) (s : State) :
    exec (.hdrEncode t r m l i f v) s = execHdrEncode t r m l i f v s := rfl

/-- HDR_ENCODE on operands that are the numbers of a header's fields. -/
theorem execHdrEncode_of_fields (t : NodeType) (r : Req) (m : Bool) (l : U16) (i f : Byte) (v : U16) (s : State) :
    execHdrEncode (t.bits.setWidth 8) (r.bits.setWidth 8) (flagByte m) l i f v s =
      .next (s.replyWith (encodeResults ⟨t, r, m, padSignature, l, i, f, v⟩)) := by
  simp only [execHdrEncode, nodeTypeOperand_bits, reqOperand_bits, moreFragOperand_flagByte]

theorem execHdrEncode_of_out_of_range {t r m : Byte} (h : 3 < t.toNat ∨ 3 < r.toNat ∨ 1 < m.toNat) (l : U16)
    (i f : Byte) (v : U16) (s : State) : execHdrEncode t r m l i f v s = .next (s.reply .badArgument) := by
  unfold execHdrEncode
  split
  next ht hr hm =>
    simp only [nodeTypeOperand, reqOperand, moreFragOperand, Option.ite_none_right_eq_some] at ht hr hm
    omega
  next => rfl

/-! ### The results of HDR_DECODE, in bits of byte 0 -/

theorem exec_hdrDecode (b : Hdr7) (s : State) :
    exec (.hdrDecode b) s = .next (s.replyWith (decodeResults (decodeHeader b))) := rfl

/-- A bit field widened to a byte is the byte shifted down and masked. -/
theorem setWidth_extractLsb'_eq_and (b : Byte) (i n : Nat) :
    (b.extractLsb' i n).setWidth 8 = (b >>> i) &&& (BitVec.allOnes n).setWidth 8 := by
  apply BitVec.eq_of_getLsbD_eq
  intro j hj
  simp only [BitVec.getLsbD_setWidth, BitVec.getLsbD_extractLsb', BitVec.getLsbD_and, BitVec.getLsbD_ushiftRight,
    BitVec.getLsbD_allOnes]
  grind

theorem typeField_setWidth (b : Byte) : (b.extractLsb' 0 2).setWidth 8 = b &&& 3 := by
  rw [setWidth_extractLsb'_eq_and, BitVec.ushiftRight_zero]; rfl

theorem reqField_setWidth (b : Byte) : (b.extractLsb' 2 2).setWidth 8 = (b >>> 2) &&& 3 :=
  setWidth_extractLsb'_eq_and b 2 2

theorem flagByte_getLsbD (b : Byte) (i : Nat) : flagByte (b.getLsbD i) = (b >>> i) &&& 1 := by
  have hmask := BitVec.and_one_eq_setWidth_ofBool_getLsbD (x := b >>> i)
  rw [BitVec.getLsbD_ushiftRight, Nat.add_zero] at hmask
  exact (flagByte_eq_setWidth _).trans hmask.symm

theorem padField_setWidth (b : Byte) : (b.extractLsb' 5 3).setWidth 8 = b >>> 5 := by
  apply BitVec.eq_of_toNat_eq
  simp only [BitVec.toNat_setWidth, BitVec.extractLsb'_toNat, BitVec.toNat_ushiftRight]
  omega

/-! ### The obligations -/

/-- Settles O1: byte 0 is its four fields side by side, the other bytes are little-endian halves; law (b) is law (c) for
a header that holds the signature already. -/
theorem headerCodecRoundTrips : Obligations.HeaderCodecRoundTrips := by
  refine ⟨fun b => encodeHeader_decodeHeader, fun h hpad => ?_, fun h => ?_⟩
  · have hsame : { h with pad := padSignature } = h := by rw [padSignature, ← hpad]
    exact ⟨headerHdr7 h, encodeHeader_eq_hdr7Bytes h, (decodeHeader_headerHdr7 h).trans hsame⟩
  · exact ⟨headerHdr7 h, encodeHeader_eq_hdr7Bytes h, decodeHeader_headerHdr7 h⟩

/-- Settles O13: operands in range are the numbers of a header's fields, and any others are refused. -/
theorem hdrEncodeResponds : Obligations.HdrEncodeResponds := by
  intro s t r m l i f v
  refine ⟨rfl, ?_⟩
  rw [exec_hdrEncode]
  by_cases hrange : 3 < t.toNat ∨ 3 < r.toNat ∨ 1 < m.toNat
  · rw [execHdrEncode_of_out_of_range hrange, if_pos hrange]
    rfl
  · rw [if_neg hrange]
    obtain ⟨t, rfl⟩ := exists_nodeType (b := t) (by omega)
    obtain ⟨r, rfl⟩ := exists_req (b := r) (by omega)
    obtain ⟨m, rfl⟩ := exists_flag (b := m) (by omega)
    have hpad : padSignature.setWidth 8 = (5 : Byte) := by decide
    rw [execHdrEncode_of_fields, encodeResults, flagByte_eq_ite validity_iff, flagByte_eq_ite lastFrag_iff]
    simp only [hpad, and_true]
    rfl

/-- Settles O14: the numbers of the decoded fields are bits of the operand, and the two flags are read off them. -/
theorem hdrDecodeResponds : Obligations.HdrDecodeResponds := by
  intro s b
  refine ⟨rfl, ?_⟩
  rw [exec_hdrDecode, decodeResults, flagByte_eq_ite validity_iff, flagByte_eq_ite lastFrag_iff]
  simp only [decodeHeader, NodeType.bits_ofBits, Req.bits_ofBits, typeField_setWidth, reqField_setWidth,
    flagByte_getLsbD, padField_setWidth, le16_rd16, Ne, rd16_eq_zero, not_and_or]
  rfl

end Sys2Proof.Machine
end

section
/-! PROOFS of the family 41_fragmentation (O39, O40): FragCount counts chunks, the chunks of a payload, and the frames
PrepareFrag builds on them. -/
namespace Sys2Proof.Machine

/-! ### FragCount (41_fragmentation R142) -/

/-- What makes FragCount a ceiling: `k` frames are enough exactly when their chunks hold the payload. -/
theorem fragCount_le_iff {p : Params} (hp : 1 ≤ p.fragSize) {n k : Nat} :
    fragCount p n ≤ k ↔ n ≤ k * p.fragSize := by
  rw [fragCount, Nat.div_le_iff_le_mul_add_pred hp, Nat.mul_comm, Nat.add_le_add_iff_right]

theorem lt_fragCount_iff {p : Params} (hp : 1 ≤ p.fragSize) {n k : Nat} :
    k < fragCount p n ↔ k * p.fragSize < n := by
  rw [← not_le, fragCount_le_iff hp, not_le]

theorem fragCount_zero {p : Params} (hp : 1 ≤ p.fragSize) : fragCount p 0 = 0 :=
  Nat.le_zero.1 ((fragCount_le_iff hp).2 (Nat.zero_le _))

theorem tooLong_iff {p : Params} (hp : 1 ≤ p.fragSize) {n : Nat} :
    tooLong p n = true ↔ 256 * p.fragSize < n := by
  rw [tooLong, decide_eq_true_iff, gt_iff_lt, lt_fragCount_iff hp]

theorem exec_send (b : Bytes) (s : State) : exec (.send b) s = .next (sendData b (subscriberAddrs s) s) := rfl

theorem exec_sendTo (a : Addr) (b : Bytes) (s : State) : exec (.sendTo a b) s = .next (sendData b [a] s) := rfl

/-- An initialised block refuses a payload that is too long before it sends anything (43_host_commands R200 step 6). -/
theorem sendData_of_tooLong {s : State} {b : Bytes} (hinit : s.status.init = true)
    (hlong : tooLong s.params b.length = true) (dests : List Addr) :
    sendData b dests s = s.reply .messageTooLong := by
  simp only [sendData, hinit, hlong, Bool.not_true, Bool.false_eq_true, if_false, if_true]

/-! ### The chunks of a payload (41_fragmentation R141) -/

theorem chunk_length (p : Params) (b : Bytes) (i : Nat) :
    (chunk p b i).length = min p.fragSize (b.length - i * p.fragSize) := by
  rw [chunk, List.length_take, List.length_drop]

theorem chunk_length_le (p : Params) (b : Bytes) (i : Nat) : (chunk p b i).length ≤ p.fragSize :=
  List.length_take_le _ _

theorem chunk_length_pos {p : Params} (hp : 1 ≤ p.fragSize) {b : Bytes} {i : Nat} (hi : i < fragCount p b.length) :
    1 ≤ (chunk p b i).length := by
  rw [lt_fragCount_iff hp] at hi
  rw [chunk_length]
  omega

/-- Every chunk that has a chunk after it is full. -/
theorem chunk_length_of_lt {p : Params} (hp : 1 ≤ p.fragSize) {b : Bytes} {i : Nat}
    (hi : i + 1 < fragCount p b.length) : (chunk p b i).length = p.fragSize := by
  rw [lt_fragCount_iff hp, Nat.succ_mul] at hi
  rw [chunk_length]
  omega

/-- The first `k` chunks of a payload, in order. -/
def chunksUpTo (p : Params) (b : Bytes) (k : Nat) : List Bytes := (List.range k).map (chunk p b)

@[simp] theorem chunksUpTo_length (p : Params) (b : Bytes) (k : Nat) : (chunksUpTo p b k).length = k := by
  rw [chunksUpTo, List.length_map, List.length_range]

theorem chunksUpTo_getElem?_eq_some {p : Params} {b c : Bytes} {k i : Nat} :
    (chunksUpTo p b k)[i]? = some c ↔ i < k ∧ chunk p b i = c := by
  simp [chunksUpTo, List.getElem?_eq_some_iff]

/-- Each chunk goes on where the one before it stops. -/
theorem chunksUpTo_flatten (p : Params) (b : Bytes) (k : Nat) :
    (chunksUpTo p b k).flatten = b.take (k * p.fragSize) := by
  induction k with
  | zero => simp [chunksUpTo]
  | succ k ih =>
    have hlast : (chunksUpTo p b (k + 1)).flatten = (chunksUpTo p b k).flatten ++ chunk p b k := by
      simp [chunksUpTo, List.range_succ]
    rw [hlast, ih, chunk, Nat.succ_mul, List.take_add]

theorem chunksUpTo_fragCount_flatten {p : Params} (hp : 1 ≤ p.fragSize) (b : Bytes) :
    (chunksUpTo p b (fragCount p b.length)).flatten = b := by
  rw [chunksUpTo_flatten, List.take_of_length_le ((fragCount_le_iff hp).1 le_rfl)]

/-! ### The frames of a batch (41_fragmentation R141) -/

theorem nextRef_ne_zero (c : Byte) : nextRef c ≠ 0 := by
  unfold nextRef
  split
  next => decide
  next h => exact h

/-- ParseDatagram gives back the header and the payload of a frame that was put together from them
(40_header_codec R125, R128). -/
theorem parseDatagram_encodeHeader_append {h : Header} {c : Bytes} (hvalid : validity h = true)
    (hlen : h.payloadLength.toNat = c.length) : parseDatagram (encodeHeader h ++ c) = some (h, c) := by
  obtain ⟨-, -, hpad⟩ := validity_iff.1 hvalid
  have hdec : decodeHeader (headerHdr7 h) = h := by rw [decodeHeader_headerHdr7, ← pad_setWidth_eq_five.1 hpad]
  exact parseDatagram_eq_some.2
    ⟨headerHdr7 h, c, by rw [encodeHeader_eq_hdr7Bytes], hdec.symm, hvalid, hlen.le, by rw [hlen, List.take_length]⟩

/-- The length field holds the chunk's length: FRAG_SIZE fits 16 bits (00_scope R8). -/
theorem fragHeader_payloadLength_toNat {s : State} (hp : s.params.fragSize ≤ 65535) (ref : Byte) (b : Bytes) (i : Nat) :
    (fragHeader s ref b i).payloadLength.toNat = (chunk s.params b i).length := by
  have hle := chunk_length_le s.params b i
  exact Nat.mod_eq_of_lt (by omega)

/-- The index field holds the index: a batch has at most 256 frames (41_fragmentation R142). -/
theorem fragHeader_fragIndex_toNat (s : State) (ref : Byte) (b : Bytes) {i : Nat} (hi : i < 256) :
    (fragHeader s ref b i).fragIndex.toNat = i := Nat.mod_eq_of_lt hi

theorem fragHeader_moreFrag (s : State) (ref : Byte) (b : Bytes) (i : Nat) :
    (fragHeader s ref b i).moreFrag = true ↔ i + 1 < fragCount s.params b.length := decide_eq_true_iff

/-- A frame of a batch carries at least one byte and a reference that is not 0. -/
theorem fragHeader_validity {s : State} {ref : Byte} {b : Bytes} {i : Nat} (href : ref ≠ 0)
    (hlen : 1 ≤ (fragHeader s ref b i).payloadLength.toNat) : validity (fragHeader s ref b i) = true := by
  have hne : (fragHeader s ref b i).payloadLength ≠ 0 := fun h => by rw [h] at hlen; exact absurd hlen (by decide)
  exact validity_iff.2 ⟨.inr hne, .inr href, pad_setWidth_eq_five.2 rfl⟩

@[simp] theorem batchFrames_length (s : State) (ref : Byte) (b : Bytes) :
    (batchFrames s ref b).length = fragCount s.params b.length := by
  rw [batchFrames, List.length_map, List.length_range]

theorem batchFrames_getElem? (s : State) (ref : Byte) {b : Bytes} {i : Nat} (hi : i < fragCount s.params b.length) :
    (batchFrames s ref b)[i]? = some (encodeHeader (fragHeader s ref b i) ++ chunk s.params b i) := by
  rw [batchFrames, List.getElem?_map, List.getElem?_range hi, Option.map_some]

theorem prepareFrag_nil {s : State} (hp : 1 ≤ s.params.fragSize) : prepareFrag [] s = ([], s) :=
  if_pos (fragCount_zero hp)

theorem prepareFrag_of_ne_nil {s : State} (hp : 1 ≤ s.params.fragSize) {b : Bytes} (hb : b ≠ []) :
    prepareFrag b s = (batchFrames s (nextRef s.fragCtr) b, { s with fragCtr := nextRef s.fragCtr }) := by
  have hpos : 0 < fragCount s.params b.length := by
    rw [lt_fragCount_iff hp, Nat.zero_mul]
    exact List.length_pos_iff.2 hb
  exact if_neg hpos.ne'

/-! ### The obligations -/

/-- Settles O39: the three clauses on FragCount are readings of `fragCount_le_iff`, and SEND and SEND_TO look at it before
they send. -/
theorem fragCountIsCeiling : Obligations.FragCountIsCeiling := by
  refine ⟨fun p n hp => ?_, fun p hp => fragCount_zero hp.1, fun s a b hp hinit hlong => ?_⟩
  · exact ⟨(fragCount_le_iff hp.1).1 le_rfl, fun k => (fragCount_le_iff hp.1).2, lt_fragCount_iff hp.1⟩
  · have hrefused := sendData_of_tooLong hinit ((tooLong_iff hp.1).2 hlong)
    rw [exec_send, exec_sendTo, hrefused, hrefused]
    exact ⟨rfl, rfl⟩

/-- Settles O40: the chunks are `chunksUpTo` the frame count, and frame `i` is `fragHeader` before chunk `i`. -/
theorem prepareFragSplitsPayload : Obligations.PrepareFragSplitsPayload := by
  intro s b frames s' hlegal hfits hprep
  obtain ⟨hpos, hwidth, -⟩ := hlegal
  constructor
  · rintro rfl
    rw [prepareFrag_nil hpos, Prod.mk.injEq] at hprep
    exact ⟨hprep.1.symm, hprep.2.symm⟩
  · intro hb
    rw [prepareFrag_of_ne_nil hpos hb, Prod.mk.injEq] at hprep
    obtain ⟨rfl, rfl⟩ := hprep
    simp only [batchFrames_length]
    refine ⟨trivial, trivial, chunksUpTo s.params b (fragCount s.params b.length), chunksUpTo_length .., ?_, ?_⟩
    · exact chunksUpTo_fragCount_flatten hpos b
    · intro i c hc
      obtain ⟨hi, rfl⟩ := chunksUpTo_getElem?_eq_some.1 hc
      have hi256 : i < 256 := hi.trans_le ((fragCount_le_iff hpos).2 hfits)
      have hlen := fragHeader_payloadLength_toNat hwidth (nextRef s.fragCtr) b i
      have hchunk := chunk_length_pos hpos hi
      have hvalid := fragHeader_validity (nextRef_ne_zero s.fragCtr) (hchunk.trans_eq hlen.symm)
      exact ⟨chunk_length_of_lt hpos, hchunk, chunk_length_le .., fragHeader s (nextRef s.fragCtr) b i,
        batchFrames_getElem? s _ hi, rfl, rfl, fragHeader_moreFrag .., rfl, hlen, fragHeader_fragIndex_toNat s _ b hi256,
        rfl, rfl, parseDatagram_encodeHeader_append hvalid hlen⟩

end Sys2Proof.Machine
end

section
/-! PROOFS of the family 42_registry (O16, O33, O34, O36): what Find answers in a table that holds no address twice, and
from that what Upsert, Remove and REG_LOOKUP do with a held address and with one that is not held. -/
namespace Sys2Proof.Machine

/-! ### The first position that passes a test -/

theorem findIdx?_eq_some_of_first {α : Type} {l : List α} {q : α → Bool} {j : Nat} {x : α} (hj : l[j]? = some x)
    (hq : q x = true) (hbefore : ∀ i y, i < j → l[i]? = some y → q y = false) : l.findIdx? q = some j := by
  obtain ⟨hlen, rfl⟩ := List.getElem?_eq_some_iff.1 hj
  refine List.findIdx?_eq_some_iff_getElem.2 ⟨hlen, hq, fun i hi => ?_⟩
  rw [hbefore i _ hi (List.getElem?_eq_getElem (hi.trans hlen))]
  exact Bool.false_ne_true

theorem modify_eq_set_of_getElem? {α : Type} {l : List α} {i : Nat} {x : α} (f : α → α) (hi : l[i]? = some x) :
    l.modify i f = l.set i (f x) := by
  rw [List.modify_eq_set_getElem?, hi]
  rfl

/-! ### Find (42_registry R180, R181) -/

/-- AddrEq is equality of addresses (42_registry R180). -/
theorem addr_eq_iff {a b : Addr} : a = b ↔ a.ip = b.ip ∧ a.port = b.port := by
  cases a; cases b; rw [Addr.mk.injEq]

/-- What both Finds rest on: where no address stands twice, the first entry that holds `a` is the only one. -/
theorem findIdx?_addr_eq_some_iff {α : Type} {valid : α → Bool} {addr : α → Addr} {T : List α}
    (hnodup : ((T.filter valid).map addr).Nodup) {a : Addr} {i : Nat} :
    T.findIdx? (fun e => valid e && addr e == a) = some i ↔ ∃ e, T[i]? = some e ∧ valid e = true ∧ addr e = a := by
  constructor
  · intro hfind
    obtain ⟨hlen, hholds, -⟩ := List.findIdx?_eq_some_iff_getElem.1 hfind
    rw [Bool.and_eq_true, beq_iff_eq] at hholds
    exact ⟨T[i], List.getElem?_eq_getElem hlen, hholds⟩
  · rintro ⟨e, he, hvalid, rfl⟩
    refine findIdx?_eq_some_of_first he (by rw [hvalid, beq_self_eq_true, Bool.and_true]) fun j x hj hx => ?_
    have hdistinct := List.pairwise_filter.1 (List.pairwise_map.1 hnodup)
    obtain ⟨hilen, rfl⟩ := List.getElem?_eq_some_iff.1 he
    obtain ⟨hjlen, rfl⟩ := List.getElem?_eq_some_iff.1 hx
    rw [Bool.and_eq_false_imp, beq_eq_false_iff_ne]
    exact fun hxvalid => List.pairwise_iff_getElem.1 hdistinct j i hjlen hilen hj hxvalid hvalid

theorem findEntry_eq_some_iff {T : List Entry} (hnodup : (validAddrs T).Nodup) {a : Addr} {i : Nat} :
    findEntry T a = some i ↔ ∃ e, T[i]? = some e ∧ e.valid = true ∧ e.addr = a :=
  findIdx?_addr_eq_some_iff hnodup

theorem findPend_eq_some_iff {T : List PendEntry} (hnodup : (pendAddrs T).Nodup) {a : Addr} {i : Nat} :
    findPend T a = some i ↔ ∃ e, T[i]? = some e ∧ e.valid = true ∧ e.addr = a :=
  findIdx?_addr_eq_some_iff hnodup

theorem findEntry_isSome_iff {T : List Entry} {a : Addr} : (findEntry T a).isSome = true ↔ a ∈ validAddrs T := by
  rw [Option.isSome_iff_ne_none, Ne, findEntry_none, not_not]

theorem findPend_isSome_iff {T : List PendEntry} {a : Addr} : (findPend T a).isSome = true ↔ a ∈ pendAddrs T := by
  rw [Option.isSome_iff_ne_none, Ne, findPend_none, not_not]

/-! ### Upsert (42_registry R182) -/

theorem upsert_of_findEntry {T : List Entry} {a : Addr} {i : Nat} {e : Entry} (hfind : findEntry T a = some i)
    (he : T[i]? = some e) (ty : NodeType) : upsert a ty T = T.set i { e with type := ty } := by
  simp only [upsert, hfind]
  exact modify_eq_set_of_getElem? _ he

theorem upsert_of_full {T : List Entry} {a : Addr} (ha : a ∉ validAddrs T) (hfull : ∀ e ∈ T, e.valid = true)
    (ty : NodeType) : upsert a ty T = T := by
  have hfree : T.findIdx? (fun e => !e.valid) = none :=
    List.findIdx?_eq_none_iff.2 fun e he => by rw [hfull e he, Bool.not_true]
  simp only [upsert, (findEntry_none T a).2 ha, hfree]

theorem upsert_of_free {T : List Entry} {a : Addr} {j : Nat} (ha : a ∉ validAddrs T)
    (hfree : T.findIdx? (fun e => !e.valid) = some j) (ty : NodeType) :
    upsert a ty T = T.set j { valid := true, addr := a, type := ty } := by
  simp only [upsert, (findEntry_none T a).2 ha, hfree]

/-! ### Remove (42_registry R184) -/

theorem removeEntry_of_findEntry {T : List Entry} {a : Addr} {i : Nat} {e : Entry} (hfind : findEntry T a = some i)
    (he : T[i]? = some e) : removeEntry a T = T.set i { e with valid := false } := by
  simp only [removeEntry, hfind]
  exact modify_eq_set_of_getElem? _ he

theorem removeEntry_of_notMem {T : List Entry} {a : Addr} (ha : a ∉ validAddrs T) : removeEntry a T = T := by
  simp only [removeEntry, (findEntry_none T a).2 ha]

theorem removePend_of_findPend {T : List PendEntry} {a : Addr} {i : Nat} {e : PendEntry}
    (hfind : findPend T a = some i) (he : T[i]? = some e) : removePend a T = T.set i { e with valid := false } := by
  simp only [removePend, hfind]
  exact modify_eq_set_of_getElem? _ he

theorem removePend_of_notMem {T : List PendEntry} {a : Addr} (ha : a ∉ pendAddrs T) : removePend a T = T := by
  simp only [removePend, (findPend_none T a).2 ha]

/-! ### REG_LOOKUP (42_registry R192) -/

theorem exec_regLookup (a : Addr) (s : State) :
    exec (.regLookup a) s = .next (s.replyWith [lookupFlags s a, lookupType s.sub a, lookupType s.pub a]) := rfl

theorem lookupFlags_eq (s : State) (a : Addr) :
    lookupFlags s a = (if a ∈ validAddrs s.sub then 1 else 0) ||| (if a ∈ validAddrs s.pub then 2 else 0) |||
      (if a ∈ pendAddrs s.pend then 4 else 0) := by
  simp only [lookupFlags, findEntry_isSome_iff, findPend_isSome_iff]

theorem lookupType_of_mem {T : List Entry} (hnodup : (validAddrs T).Nodup) {a : Addr} {e : Entry} (he : e ∈ T)
    (hvalid : e.valid = true) (ha : e.addr = a) : lookupType T a = e.type.bits.setWidth 8 := by
  obtain ⟨i, hi⟩ := List.mem_iff_getElem?.1 he
  have hfind := (findEntry_eq_some_iff hnodup).2 ⟨e, hi, hvalid, ha⟩
  simp only [lookupType, hfind, hi]

theorem lookupType_of_notMem {T : List Entry} {a : Addr} (ha : a ∉ validAddrs T) : lookupType T a = 0 := by
  simp only [lookupType, (findEntry_none T a).2 ha]

/-! ### The obligations -/

/-- Settles O33: Find by address, with AddrEq read field by field. -/
theorem findComparesAddresses : Obligations.FindComparesAddresses := by
  simp only [Obligations.FindComparesAddresses, ← addr_eq_iff]
  exact ⟨fun _ _ _ hnodup => findEntry_eq_some_iff hnodup, fun _ _ _ hnodup => findPend_eq_some_iff hnodup⟩

/-- Settles O34: Find answers the entry of a held address; for any other address the first invalid entry decides. -/
theorem upsertUpdatesInsertsOrDrops : Obligations.UpsertUpdatesInsertsOrDrops := by
  intro T a ty hnodup
  refine ⟨fun i e he hvalid haddr => ?_, fun ha hfull => upsert_of_full ha hfull ty,
    fun ha j e he hinvalid hbefore => upsert_of_free ha ?_ ty⟩
  · exact upsert_of_findEntry ((findEntry_eq_some_iff hnodup).2 ⟨e, he, hvalid, haddr⟩) he ty
  · refine findIdx?_eq_some_of_first he (by rw [hinvalid, Bool.not_false]) fun i e' hi he' => ?_
    rw [hbefore i e' hi he', Bool.not_true]

/-- Settles O36: Remove writes the one entry Find answers, if any. -/
theorem removeClearsValid : Obligations.RemoveClearsValid := by
  refine ⟨fun T a hnodup => ⟨fun i e he hvalid haddr => ?_, removeEntry_of_notMem⟩,
    fun T a hnodup => ⟨fun i e he hvalid haddr => ?_, removePend_of_notMem⟩⟩
  · exact removeEntry_of_findEntry ((findEntry_eq_some_iff hnodup).2 ⟨e, he, hvalid, haddr⟩) he
  · exact removePend_of_findPend ((findPend_eq_some_iff hnodup).2 ⟨e, he, hvalid, haddr⟩) he

/-- Settles O16: the flags are membership in the three tables, and the two type bytes are `lookupType` of S.SUB and
S.PUB. -/
theorem regLookupResponds : Obligations.RegLookupResponds := by
  intro s a ⟨hsub, hpub, _⟩
  refine ⟨rfl, lookupType s.sub a, lookupType s.pub a, ?_, fun _ => lookupType_of_mem hsub, lookupType_of_notMem,
    fun _ => lookupType_of_mem hpub, lookupType_of_notMem⟩
  rw [exec_regLookup, lookupFlags_eq]
  rfl

end Sys2Proof.Machine
end

section
/-! PROOFS of the family 43_host_commands (O15, O17 to O20, O46 to O50): each command is put together from the rule of
the shared operation it runs (Laws/Ops, Laws/Receive), and what the spec writes as bytes is read off the model's codes and
operands. -/
namespace Sys2Proof.Machine

/-! ### Operands and the control frame -/

theorem nodeTypeOperand_of_toNat_eq {ty : Byte} {T : NodeType} (h : ty.toNat = T.bits.toNat) :
    nodeTypeOperand ty = some T := by
  have hty : ty = T.bits.setWidth 8 := BitVec.eq_of_toNat_eq (by rw [BitVec.toNat_setWidth, h]; omega)
  rw [hty, nodeTypeOperand_bits]

theorem nodeTypeOperand_of_gt {ty : Byte} (h : 3 < ty.toNat) : nodeTypeOperand ty = none := if_neg (not_le.2 h)

theorem ctrlReqOperand_bits {R : Req} (h : R ≠ .push) : ctrlReqOperand (R.bits.setWidth 8) = some R := by
  rw [ctrlReqOperand, if_neg (reqBits_setWidth_eq_zero.not.2 h), reqOperand_bits]

theorem ctrlReqOperand_of_out_of_range {r : Byte} (h : r = 0 ∨ 3 < r.toNat) : ctrlReqOperand r = none := by
  rcases h with rfl | h
  · rfl
  · rw [ctrlReqOperand, reqOperand, if_neg (not_le.2 h), ite_self]

theorem reqBits_setWidth_eq_one {R : Req} : R.bits.setWidth 8 = (1 : Byte) ↔ R = .connect := by cases R <;> decide

@[simp] theorem controlFrame_length (R : Req) (s : State) : (controlFrame R s).length = 7 := rfl

theorem headerByte0_of_moreFrag_false {h : Header} (hmore : h.moreFrag = false) :
    headerByte0 h = 0xA0 ||| (h.req.bits.setWidth 8 <<< 2) ||| h.type.bits.setWidth 8 := by
  have hzero : flagByte false <<< 4 = 0#8 := by decide
  rw [headerByte0, hmore, hzero, BitVec.or_zero]

theorem controlFrame_eq_controlBytes (R : Req) (s : State) :
    controlFrame R s = controlBytes (0xA0 ||| (R.bits.setWidth 8 <<< 2)) s := by
  have hlength : le16 0 = [0, 0] := by decide
  show headerByte0 _ :: (le16 0 ++ [0, 0] ++ le16 s.cfg.version) = _
  rw [headerByte0_of_moreFrag_false rfl, hlength]
  rfl

theorem controlFrame_disconnect (s : State) : controlFrame .disconnect s = controlBytes 0xAC s :=
  controlFrame_eq_controlBytes .disconnect s

theorem txCalls_nil (e : PortAnswers) (n : Nat) : txCalls e [] n = [] := by rw [txCalls, List.take_nil, List.mapIdx_nil]

/-! ### Codes as bytes -/

theorem resultCode_byte_injective : Function.Injective ResultCode.byte := by
  intro c d
  cases c <;> cases d <;> decide

theorem txCode_byte (len : Nat) (answer : TxAnswer) :
    (txCode len answer).byte = match answer with
      | .fail => 8
      | .wrote n => if n < len then 7 else 0 := by
  cases answer with
  | fail => rfl
  | wrote n => exact apply_ite ResultCode.byte (n < len) _ _

theorem closeCode_byte (answer : CloseAnswer) :
    (closeCode answer).byte = if answer = .closeFail then 1 else 0 := by cases answer <;> rfl

theorem contains_sendFailure (codes : List ResultCode) :
    codes.contains .sendFailure = (codes.map ResultCode.byte).contains 8 := by
  have hmem := List.mem_map_of_injective resultCode_byte_injective (a := .sendFailure) (l := codes)
  exact Bool.eq_iff_iff.2 (List.contains_iff_mem.trans (hmem.symm.trans List.contains_iff_mem.symm))

/-- The first error of a list of codes, read in the code bytes. -/
theorem foldl_firstError_byte (codes : List ResultCode) :
    (codes.foldl firstError .success).byte = ((codes.map ResultCode.byte).find? fun c => c != 0).getD 0 := by
  have herror : (fun c : Byte => c != 0) ∘ ResultCode.byte = fun c => c != .success := by
    funext c
    cases c <;> rfl
  rw [foldl_firstError, List.find?_cons_of_neg (by decide), List.find?_map, herror]
  exact (Option.getD_map ResultCode.byte .success _).symm

/-- SHUTDOWN's code, read in the code bytes: the close code stands behind the codes of the sends. -/
theorem firstError_closeCode_byte (codes : List ResultCode) (answer : CloseAnswer) :
    (firstError (codes.foldl firstError .success) (closeCode answer)).byte =
      ((codes.map ResultCode.byte ++ [if answer = CloseAnswer.closeFail then 1 else 0]).find?
        fun c => c != 0).getD 0 := by
  rw [← closeCode_byte, ← List.map_singleton, ← List.map_append, ← foldl_firstError_byte, List.foldl_append]
  rfl

/-! ### INIT and RESET (43_host_commands R202, R203) -/

/-- The init part of INIT and RESET, everything it does. -/
theorem openAndConfigure_eq (v p : U16) (T : NodeType) (s : State) :
    openAndConfigure v p T s =
      { s with
          cfg := if s.env.openAns = .ok then { version := v, port := p, type := T } else s.cfg
          status := { s.status with init := decide (s.env.openAns = .ok) || s.status.init }
          calls := s.calls ++ [.openSocket p s.env.openAns]
          responses := s.responses ++ [[(openCode s.env.openAns).byte]] } := by
  unfold openAndConfigure driverOpen
  cases s.env.openAns <;> rfl

/-- The shutdown part of RESET, everything it does. -/
theorem resetShutdown_eq (s : State) :
    resetShutdown s =
      { s with
          status := { s.status with init := false }
          env := { s.env with tx := s.env.tx.drop (subscriberAddrs s).length }
          calls := s.calls ++
            txCalls s.env ((subscriberAddrs s).map fun a => (a, controlBytes 0xAC s)) (subscriberAddrs s).length ++
            [.closeSocket s.env.closeAns] } := by
  rw [resetShutdown, sendIgnoring_spec, controlFrame_disconnect]
  rfl

theorem exec_init_of_badArgument {ty : Byte} {s : State} (h : 3 < ty.toNat ∨ s.status.init = true) (v p : U16) :
    exec (.init v p ty) s = .next (s.reply .badArgument) := by
  show execInit v p ty s = _
  unfold execInit
  split
  next => rfl
  next T hT =>
    have hinit : s.status.init = true := h.resolve_left fun hgt => by
      rw [nodeTypeOperand_of_gt hgt] at hT
      cases hT
    rw [if_pos hinit]

theorem exec_init_of_legal {ty : Byte} {T : NodeType} {s : State} (hty : ty.toNat = T.bits.toNat)
    (hinit : s.status.init = false) (v p : U16) :
    exec (.init v p ty) s = .next (openAndConfigure v p T s) := by
  show execInit v p ty s = _
  simp only [execInit, nodeTypeOperand_of_toNat_eq hty, hinit, Bool.false_eq_true, if_false]

theorem exec_reset_of_badArgument {ty : Byte} (h : 3 < ty.toNat) (v p : U16) (s : State) :
    exec (.reset v p ty) s = .next (s.reply .badArgument) := by
  show execReset v p ty s = _
  simp only [execReset, nodeTypeOperand_of_gt h]

theorem exec_reset_of_legal {ty : Byte} {T : NodeType} (hty : ty.toNat = T.bits.toNat) (v p : U16) (s : State) :
    exec (.reset v p ty) s =
      .next (openAndConfigure v p T (if s.status.init then resetShutdown s else s).clearNeedsReset) := by
  show execReset v p ty s = _
  simp only [execReset, nodeTypeOperand_of_toNat_eq hty]

/-- RESET on an operand in range, everything it does. -/
theorem exec_reset_spec {ty : Byte} {T : NodeType} (hty : ty.toNat = T.bits.toNat) (v p : U16) (s : State)
    {sends : List (Addr × Bytes)}
    (hsends : sends = if s.status.init then (subscriberAddrs s).map fun a => (a, controlBytes 0xAC s) else []) :
    exec (.reset v p ty) s = .next
      { s with
          cfg := if s.env.openAns = .ok then { version := v, port := p, type := T } else s.cfg
          status := { init := decide (s.env.openAns = .ok), needsReset := false }
          env := { s.env with tx := s.env.tx.drop sends.length }
          calls := s.calls ++ txCalls s.env sends sends.length ++
            (if s.status.init then [.closeSocket s.env.closeAns] else []) ++ [.openSocket p s.env.openAns]
          responses := s.responses ++ [[(openCode s.env.openAns).byte]] } := by
  rw [exec_reset_of_legal hty, openAndConfigure_eq]
  subst hsends
  cases hinit : s.status.init with
  | true =>
    simp only [if_true, resetShutdown_eq, State.clearNeedsReset, List.length_map, Bool.or_false]
  | false =>
    simp only [Bool.false_eq_true, if_false, State.clearNeedsReset, hinit, txCalls_nil, List.length_nil, List.drop_zero,
      List.append_nil, Bool.or_false]

/-- Settles O17: the prologue's two refusals, and otherwise `openAndConfigure` on each of the driver's four answers. -/
theorem initOpensAndConfigures : Obligations.InitOpensAndConfigures := by
  intro s v p ty
  refine ⟨rfl, fun h => exec_init_of_badArgument h v p, fun T hty hinit => ?_⟩
  rw [exec_init_of_legal hty hinit, openAndConfigure_eq]
  cases s.env.openAns <;> rfl

/-- Settles O18: `exec_reset_spec`, its code read on each of the driver's four answers. -/
theorem resetReopensAndKeepsTheRest : Obligations.ResetReopensAndKeepsTheRest := by
  intro s v p ty
  refine ⟨rfl, fun h => exec_reset_of_badArgument h v p s, fun T sends hty hsends => ?_⟩
  rw [exec_reset_spec hty v p s hsends]
  cases s.env.openAns <;> rfl

/-! ### SHUTDOWN (43_host_commands R204) -/

theorem exec_shutdown_of_init {s : State} (hinit : s.status.init = true) :
    exec .shutdown s =
      .next (closeAndReport (sendToAll (controlFrame .disconnect s) (subscriberAddrs s) .success s)) := if_pos hinit

/-- Settles O19: the codes are those of `sendToAll_spec`, read as bytes; the close code stands behind them. -/
theorem shutdownDisconnectsAndCloses : Obligations.ShutdownDisconnectsAndCloses := by
  rintro s sends codes rfl hcodes
  refine ⟨rfl, fun hinit => if_neg (ne_true_of_eq_false hinit), fun hinit => ?_⟩
  have hsendCodes : codes =
      (sendCodes (controlBytes 0xAC s) s.env (subscriberAddrs s).length).map ResultCode.byte := by
    rw [hcodes, List.length_map, sendCodes, List.map_map]
    exact List.map_congr_left fun i _ => (txCode_byte 7 (txAnswerAt s.env i)).symm
  rw [exec_shutdown_of_init hinit, controlFrame_disconnect, sendToAll_spec, closeAndReport, hsendCodes,
    ← contains_sendFailure, ← firstError_closeCode_byte, List.length_map]
  rfl

/-! ### RECV (43_host_commands R205, R206) -/

theorem exec_recv_of_init {s : State} (hinit : s.status.init = true) :
    exec .recv s = receiveCycle s.env.arrivals s.env.rxEnd s := if_pos hinit

/-- Settles O20: the drain loop routes as `routeFrame` does, and the rest is `receiveCycle_spec`. -/
theorem recvRunsOneCycle : Obligations.RecvRunsOneCycle := by
  intro s s1 s2
  refine ⟨rfl, fun hinit => if_neg (ne_true_of_eq_false hinit), fun h1 h2 hinit => ?_⟩
  obtain ⟨hblock, herror⟩ := receiveCycle_spec s.env.arrivals s s1 s2 h1 h2
  rw [exec_recv_of_init hinit]
  exact ⟨fun hend => by rw [hend, hblock], fun hend => by rw [hend, herror]⟩

/-! ### FLUSH, SEND and SEND_TO (43_host_commands R209 to R211) -/

theorem prepareFrag_fragCtr {s : State} (hp : 1 ≤ s.params.fragSize) (b : Bytes) :
    (prepareFrag b s).2.fragCtr = if b = [] then s.fragCtr else nextRef s.fragCtr := by
  by_cases hb : b = []
  · subst hb
    rw [prepareFrag_nil hp, if_pos rfl]
  · rw [prepareFrag_of_ne_nil hp hb, if_neg hb]

/-- The frames of a payload do not depend on the buffer it may have been drained from. -/
theorem prepareFrag_frames_drained (b : Bytes) (s : State) :
    (prepareFrag b { s with ob := [] }).1 = (prepareFrag b s).1 := by
  unfold prepareFrag
  split <;> rfl

theorem exec_flush_of_init {s : State} (hinit : s.status.init = true) :
    exec .flush s = .next (fragmentAndSend s.ob (subscriberAddrs s) { s with ob := [] }) := if_pos hinit

theorem sendData_of_not_init {s : State} (hinit : s.status.init = false) (b : Bytes) (dests : List Addr) :
    sendData b dests s = s.reply .useBeforeInitialized := if_pos (by rw [hinit]; rfl)

theorem sendData_of_fits {s : State} {b : Bytes} (hp : 1 ≤ s.params.fragSize) (hinit : s.status.init = true)
    (hfits : b.length ≤ 256 * s.params.fragSize) (dests : List Addr) :
    sendData b dests s = fragmentAndSend b dests s := by
  have hshort : ¬ tooLong s.params b.length = true := by rw [tooLong_iff hp]; omega
  rw [sendData, hinit, if_neg (by decide), if_neg hshort]

/-- What SEND and SEND_TO do with an operand that is not too long. -/
theorem sendData_spec {s : State} {b : Bytes} (hp : 1 ≤ s.params.fragSize) (hinit : s.status.init = true)
    (hfits : b.length ≤ 256 * s.params.fragSize) (dests : List Addr) :
    ∃ made code, BatchOutcome s.env (batchSends (prepareFrag b s).1 dests) made code ∧
      sendData b dests s =
        { s with
            fragCtr := if b = [] then s.fragCtr else nextRef s.fragCtr
            status := { s.status with needsReset := s.status.needsReset || code == .sendFailure }
            env := { s.env with tx := s.env.tx.drop made }
            calls := s.calls ++ txCalls s.env (batchSends (prepareFrag b s).1 dests) made
            responses := s.responses ++ [[code.byte]] } := by
  rw [sendData_of_fits hp hinit hfits, ← prepareFrag_fragCtr hp]
  exact fragmentAndSend_spec b dests s

theorem batchSends_singleton (frames : List Bytes) (a : Addr) :
    batchSends frames [a] = frames.map fun f => (a, f) := List.map_eq_flatMap.symm

/-- Settles O47: the buffer is drained first, which its frames do not show. -/
theorem flushSendsBuffer : Obligations.FlushSendsBuffer := by
  rintro s sends ⟨hp, -⟩ rfl
  refine ⟨rfl, fun hinit => if_neg (ne_true_of_eq_false hinit), fun hinit => ?_⟩
  obtain ⟨made, code, hbatch, hsent⟩ := fragmentAndSend_spec s.ob (subscriberAddrs s) { s with ob := [] }
  rw [prepareFrag_frames_drained] at hbatch hsent
  rw [prepareFrag_fragCtr (s := { s with ob := [] }) hp] at hsent
  exact ⟨made, code, hbatch, (exec_flush_of_init hinit).trans (congrArg _ hsent)⟩

/-- Settles O48: `sendData` to the subscribers. -/
theorem sendSendsToSubscribers : Obligations.SendSendsToSubscribers := by
  rintro s b sends ⟨hp, -⟩ rfl
  rw [exec_send]
  refine ⟨rfl, fun hinit => ?_, fun hinit hlong => ?_, fun hinit hfits => ?_⟩
  · rw [sendData_of_not_init hinit]; rfl
  · rw [sendData_of_tooLong hinit ((tooLong_iff hp).2 hlong)]; rfl
  · obtain ⟨made, code, hbatch, hsent⟩ := sendData_spec hp hinit hfits (subscriberAddrs s)
    exact ⟨made, code, hbatch, congrArg _ hsent⟩

/-- Settles O49: `sendData` to the one address, which makes one send of each frame. -/
theorem sendToSendsToOneAddress : Obligations.SendToSendsToOneAddress := by
  rintro s a b sends ⟨hp, -⟩ rfl
  rw [exec_sendTo, ← batchSends_singleton]
  refine ⟨rfl, fun hinit => ?_, fun hinit hlong => ?_, fun hinit hfits => ?_⟩
  · rw [sendData_of_not_init hinit]; rfl
  · rw [sendData_of_tooLong hinit ((tooLong_iff hp).2 hlong)]; rfl
  · obtain ⟨made, code, hbatch, hsent⟩ := sendData_spec hp hinit hfits [a]
    exact ⟨made, code, hbatch, congrArg _ hsent⟩

/-! ### SEND_CTRL (43_host_commands R212) -/

/-- A batch of one send: one TxSend, whose answer gives the code. -/
theorem txBatch_single (f : Bytes) (a : Addr) (s : State) :
    txBatch [f] [a] s =
      (txCode f.length (txAnswerAt s.env 0),
        { s with status := { s.status with needsReset := s.status.needsReset || txAnswerAt s.env 0 == .fail }
                 env := { s.env with tx := s.env.tx.drop 1 }
                 calls := s.calls ++ [.txSend a f (txAnswerAt s.env 0)] }) := by
  have htx : txSend a f s = (txAnswerAt s.env 0,
      { s with env := { s.env with tx := s.env.tx.drop 1 }
               calls := s.calls ++ [.txSend a f (txAnswerAt s.env 0)] }) := by
    rw [txAnswerAt_zero, List.drop_one]; rfl
  show sendUntilFailure [(a, f)] s = _
  simp only [sendUntilFailure, htx]
  cases txAnswerAt s.env 0 with
  | fail => simp [txCode, State.noteTx, State.setNeedsReset]
  | wrote n =>
    have hwrote : (TxAnswer.wrote n == TxAnswer.fail) = false := rfl
    by_cases hn : n < f.length <;> simp [txCode, State.noteTx, hn, hwrote]

theorem notePending_eq (R : Req) (a : Addr) (code : ResultCode) (s : State) :
    notePending R a code s =
      { s with pend := if code = .success ∧ R = .connect then pendInsert a s.pend else s.pend } := by
  unfold notePending
  split <;> rfl

theorem exec_sendCtrl_of_badArgument {r : Byte} (h : r = 0 ∨ 3 < r.toNat) (a : Addr) (s : State) :
    exec (.sendCtrl r a) s = .next (s.reply .badArgument) := by
  show execSendCtrl r a s = _
  simp only [execSendCtrl, ctrlReqOperand_of_out_of_range h]

/-- SEND_CTRL on an operand in range: the prologue's INIT check, then the batch. -/
theorem exec_sendCtrl_of_req {R : Req} (hR : R ≠ .push) (a : Addr) (s : State) :
    exec (.sendCtrl (R.bits.setWidth 8) a) s =
      if s.status.init then
        .next ((notePending R a (txBatch [controlFrame R s] [a] s).1 (txBatch [controlFrame R s] [a] s).2).reply
          (txBatch [controlFrame R s] [a] s).1)
      else .next (s.reply .useBeforeInitialized) := by
  show execSendCtrl _ a s = _
  simp only [execSendCtrl, ctrlReqOperand_bits hR]

theorem exists_ctrlReq {r : Byte} (hne : r ≠ 0) (hle : r.toNat ≤ 3) :
    ∃ R : Req, R ≠ .push ∧ R.bits.setWidth 8 = r := by
  obtain ⟨R, rfl⟩ := exists_req hle
  exact ⟨R, reqBits_setWidth_eq_zero.not.1 hne, rfl⟩

/-- Settles O50: a batch of one frame; only a full send of a CONNECT writes S.PEND. -/
theorem sendCtrlSendsControlFrame : Obligations.SendCtrlSendsControlFrame := by
  intro s r a
  refine ⟨rfl, fun h => exec_sendCtrl_of_badArgument h a s, fun hne hle hinit => ?_, ?_⟩
  · obtain ⟨R, hR, rfl⟩ := exists_ctrlReq hne hle
    rw [exec_sendCtrl_of_req hR, hinit]
    rfl
  · rintro hne hle hinit answer rfl
    obtain ⟨R, hR, rfl⟩ := exists_ctrlReq hne hle
    rw [exec_sendCtrl_of_req hR, hinit, if_pos rfl, txBatch_single, notePending_eq, controlFrame_length,
      controlFrame_eq_controlBytes]
    cases txAnswerAt s.env 0 with
    | fail => rfl
    | wrote n =>
      by_cases hn : n < 7
      · simp only [txCode, if_pos hn, not_le.2 hn, reduceCtorEq, false_and, and_false, if_false]
        rfl
      · simp only [txCode, if_neg hn, not_lt.1 hn, reqBits_setWidth_eq_one, true_and, and_true]
        rfl

/-! ### PUSH and the status queries (43_host_commands R208, R213 to R215) -/

theorem hasSubs_iff {s : State} : hasSubs s = true ↔ ∃ e ∈ s.sub, e.valid = true := List.any_eq_true

/-- Settles O46: the statement asks the model's own capacity check. -/
theorem pushAppendsOrRefuses : Obligations.PushAppendsOrRefuses := by
  intro s b
  refine ⟨rfl, ?_⟩
  by_cases hfull : s.params.obCap < s.ob.length + b.length
  · rw [if_pos hfull]
    exact if_pos hfull
  · rw [if_neg hfull]
    exact if_neg hfull

/-- Settles O15: each answer is a flag byte, that of `hasSubs` read as `hasSubs_iff` says. -/
theorem statusQueriesRespond : Obligations.StatusQueriesRespond := by
  intro s
  refine ⟨⟨rfl, rfl, rfl⟩, rfl, rfl, ?_⟩
  rw [← flagByte_eq_ite hasSubs_iff]
  rfl

end Sys2Proof.Machine
end

section
/-! PROOFS of the family 60_exceptions (O53): which driver calls are fatal (R264), how the shared operations note them in
NEEDS_RESET, and that every instruction but RESET does no more than that. -/
namespace Sys2Proof.Machine

/-! ### Fatal calls -/

/-- The answer is a fatal receive or send failure (60_exceptions R264): an RxPoll's ERROR or a TxSend's FAIL. -/
def DriverCall.isFatal : DriverCall → Bool
  | .rxPoll .error => true
  | .txSend _ _ .fail => true
  | _ => false

theorem isFatal_rxPoll (answer : RxAnswer) : (DriverCall.rxPoll answer).isFatal = (answer == .error) := by
  cases answer <;> rfl

theorem isFatal_txSend (a : Addr) (f : Bytes) (answer : TxAnswer) :
    (DriverCall.txSend a f answer).isFatal = (answer == .fail) := by
  cases answer <;> rfl

theorem isFatal_iff {c : DriverCall} : c.isFatal = true ↔ c = .rxPoll .error ∨ ∃ a f, c = .txSend a f .fail := by
  cases c with
  | rxPoll answer => simp [isFatal_rxPoll]
  | txSend a f answer => simp [isFatal_txSend]
  | openSocket | closeSocket => simp [DriverCall.isFatal]

theorem any_isFatal_iff {calls : List DriverCall} :
    calls.any DriverCall.isFatal = true ↔ .rxPoll .error ∈ calls ∨ ∃ a f, .txSend a f .fail ∈ calls := by
  simp only [List.any_eq_true, isFatal_iff]
  constructor
  · rintro ⟨c, hc, rfl | ⟨a, f, rfl⟩⟩
    · exact .inl hc
    · exact .inr ⟨a, f, hc⟩
  · rintro (hc | ⟨a, f, hc⟩)
    · exact ⟨_, hc, .inl rfl⟩
    · exact ⟨_, hc, .inr ⟨a, f, rfl⟩⟩

/-- Among the first `n` sends there is a fatal one exactly if the driver answers one of them FAIL. -/
theorem txCalls_any_isFatal_iff {e : PortAnswers} {sends : List (Addr × Bytes)} {n : Nat} :
    (txCalls e sends n).any DriverCall.isFatal = true ↔ ∃ i, i < n ∧ i < sends.length ∧ txAnswerAt e i = .fail := by
  simp [txCalls, List.mem_mapIdx, isFatal_txSend, and_assoc]

/-- The code of a batch is SEND_FAILURE exactly if one of the sends made was answered FAIL. -/
theorem txCalls_any_isFatal_of_batch {e : PortAnswers} {sends : List (Addr × Bytes)} {made : Nat} {code : ResultCode}
    (hbatch : BatchOutcome e sends made code) :
    (txCalls e sends made).any DriverCall.isFatal = (code == .sendFailure) := by
  have hfull : ∀ i, (∀ a f, sends[i]? = some (a, f) → (txAnswerAt e i).Full f) → i < sends.length →
      txAnswerAt e i ≠ .fail := by
    intro i hi hlt hfail
    obtain ⟨n, hn, -⟩ := hi _ _ (List.getElem?_eq_getElem hlt)
    rw [hfail] at hn
    cases hn
  rw [Bool.eq_iff_iff, txCalls_any_isFatal_iff, beq_iff_eq]
  rcases hbatch with ⟨rfl, rfl, hall⟩ | ⟨j, a, f, hj, rfl, hbefore, ⟨hfail, rfl⟩ | ⟨n, hn, -, rfl⟩⟩
  · exact ⟨fun ⟨i, _, hlt, hfail⟩ => absurd hfail (hfull i (hall i) hlt), nofun⟩
  · exact ⟨fun _ => rfl, fun _ => ⟨j, j.lt_succ_self, (List.getElem?_eq_some_iff.1 hj).1, hfail⟩⟩
  · refine ⟨fun ⟨i, hij, hlt, hfail⟩ => ?_, nofun⟩
    rcases Nat.lt_succ_iff_lt_or_eq.1 hij with hij | rfl
    · exact absurd hfail (hfull i (fun a f => hbefore i a f hij) hlt)
    · rw [hn] at hfail; cases hfail

theorem txCode_eq_sendFailure_iff {len : Nat} {answer : TxAnswer} :
    txCode len answer = .sendFailure ↔ answer = .fail := by
  cases answer with
  | fail => simp [txCode]
  | wrote n => by_cases hn : n < len <;> simp [txCode, hn]

/-- SHUTDOWN makes every send, so its codes hold SEND_FAILURE exactly if one of them was answered FAIL. -/
theorem txCalls_any_isFatal_of_sendCodes (e : PortAnswers) (f : Bytes) (dests : List Addr) :
    (txCalls e (dests.map fun a => (a, f)) dests.length).any DriverCall.isFatal =
      (sendCodes f e dests.length).contains .sendFailure := by
  rw [Bool.eq_iff_iff, txCalls_any_isFatal_iff, List.contains_iff_mem]
  simp [sendCodes, txCode_eq_sendFailure_iff]

theorem rxCalls_any_isFatal (arrivals : List (Addr × Bytes)) (last : RxAnswer) :
    (rxCalls arrivals last).any DriverCall.isFatal = (last == .error) := by
  have hdatagrams : (arrivals.map fun a => DriverCall.rxPoll (.datagram a.1 a.2)).any DriverCall.isFatal = false := by
    simp [isFatal_rxPoll]
  rw [rxCalls, List.any_append, hdatagrams, Bool.false_or, List.any_cons, List.any_nil, Bool.or_false, isFatal_rxPoll]

/-! ### Noting fatal calls in NEEDS_RESET -/

/-- From `s` to `t` the log of driver calls grew, and NEEDS_RESET was set if one of the new calls is fatal and is
otherwise as it was (60_exceptions R264). -/
def NotesFatal (s t : State) : Prop :=
  ∃ made, t.calls = s.calls ++ made ∧ t.status.needsReset = (s.status.needsReset || made.any DriverCall.isFatal)

theorem NotesFatal.needsReset_iff {s t : State} (h : NotesFatal s t) :
    t.status.needsReset = true ↔ s.status.needsReset = true ∨
      .rxPoll .error ∈ t.calls.drop s.calls.length ∨ ∃ a f, .txSend a f .fail ∈ t.calls.drop s.calls.length := by
  obtain ⟨made, hcalls, hneeds⟩ := h
  rw [hcalls, List.drop_left, hneeds, Bool.or_eq_true, any_isFatal_iff]

theorem notesFatal_of_no_call {s t : State} (hcalls : t.calls = s.calls) (hstatus : t.status = s.status) :
    NotesFatal s t := ⟨[], by rw [hcalls, List.append_nil], by rw [hstatus, List.any_nil, Bool.or_false]⟩

theorem notesFatal_reply (s : State) (code : ResultCode) : NotesFatal s (s.reply code) := notesFatal_of_no_call rfl rfl

theorem notesFatal_replyWith (s : State) (results : Bytes) : NotesFatal s (s.replyWith results) :=
  notesFatal_of_no_call rfl rfl

theorem notesFatal_openAndConfigure (v p : U16) (T : NodeType) (s : State) :
    NotesFatal s (openAndConfigure v p T s) := by
  rw [openAndConfigure_eq]
  exact ⟨_, rfl, (Bool.or_false _).symm⟩

theorem notesFatal_sendToAll (frame : Bytes) (dests : List Addr) (s : State) :
    NotesFatal s (sendToAll frame dests .success s).2 := by
  rw [sendToAll_spec, ← txCalls_any_isFatal_of_sendCodes]
  exact ⟨_, rfl, rfl⟩

/-- The close call is no fatal one. -/
theorem NotesFatal.closeAndReport {s : State} {sent : ResultCode × State} (h : NotesFatal s sent.2) :
    NotesFatal s (closeAndReport sent) := by
  obtain ⟨made, hcalls, hneeds⟩ := h
  refine ⟨made ++ [.closeSocket sent.2.env.closeAns], ?_, ?_⟩
  · rw [← List.append_assoc, ← hcalls]; rfl
  · rw [List.any_append]
    exact hneeds.trans (congrArg _ (Bool.or_false _).symm)

theorem notesFatal_of_batch {s t : State} {sends : List (Addr × Bytes)} {made : Nat} {code : ResultCode}
    (hbatch : BatchOutcome s.env sends made code) (hcalls : t.calls = s.calls ++ txCalls s.env sends made)
    (hneeds : t.status.needsReset = (s.status.needsReset || code == .sendFailure)) : NotesFatal s t :=
  ⟨_, hcalls, by rw [hneeds, txCalls_any_isFatal_of_batch hbatch]⟩

theorem notesFatal_fragmentAndSend (b : Bytes) (dests : List Addr) (s : State) :
    NotesFatal s (fragmentAndSend b dests s) := by
  obtain ⟨made, code, hbatch, hsent⟩ := fragmentAndSend_spec b dests s
  rw [hsent]
  exact notesFatal_of_batch hbatch rfl rfl

theorem notesFatal_sendData (b : Bytes) (dests : List Addr) (s : State) : NotesFatal s (sendData b dests s) := by
  unfold sendData
  split
  · exact notesFatal_reply s _
  · split
    · exact notesFatal_reply s _
    · exact notesFatal_fragmentAndSend b dests s

theorem notesFatal_txBatch (frames : List Bytes) (dests : List Addr) (s : State) :
    NotesFatal s (txBatch frames dests s).2 := by
  obtain ⟨made, code, hbatch, hsent⟩ := sendUntilFailure_spec (batchSends frames dests) s
  rw [txBatch, hsent]
  exact notesFatal_of_batch hbatch rfl rfl

theorem notesFatal_receive {arrivals : List (Addr × Bytes)} {fin : RxEnd} {s t : State}
    (h : receive arrivals fin s = .next t) : NotesFatal s t := by
  unfold receive at h
  split at h
  · obtain ⟨hblock, herror⟩ := receiveCycle_spec arrivals s _ _ rfl rfl
    cases fin with
    | wouldBlock =>
      cases hblock.symm.trans h
      exact ⟨_, rfl, by rw [rxCalls_any_isFatal]; exact (Bool.or_false _).symm⟩
    | error =>
      cases herror.symm.trans h
      exact ⟨_, rfl, by rw [rxCalls_any_isFatal]; exact (Bool.or_true _).symm⟩
    | endless => cases h
  · cases h
    exact notesFatal_reply s _

/-! ### The instructions -/

theorem notesFatal_init {v p : U16} {ty : Byte} {s t : State} (h : execInit v p ty s = .next t) : NotesFatal s t := by
  unfold execInit at h
  split at h
  · cases h
    exact notesFatal_reply s _
  · split at h <;> cases h
    · exact notesFatal_reply s _
    · exact notesFatal_openAndConfigure _ _ _ s

theorem notesFatal_shutdown {s t : State} (h : execShutdown s = .next t) : NotesFatal s t := by
  unfold execShutdown at h
  split at h <;> cases h
  · exact (notesFatal_sendToAll _ _ s).closeAndReport
  · exact notesFatal_reply s _

theorem notesFatal_getPackets {s t : State} (h : execGetPackets s = .next t) : NotesFatal s t := by
  unfold execGetPackets at h
  split at h <;> cases h
  · exact notesFatal_reply s _
  · exact notesFatal_of_no_call rfl rfl

theorem notesFatal_push {b : Bytes} {s t : State} (h : execPush b s = .next t) : NotesFatal s t := by
  unfold execPush at h
  split at h <;> cases h
  · exact notesFatal_reply s _
  · exact notesFatal_of_no_call rfl rfl

theorem notesFatal_flush {s t : State} (h : execFlush s = .next t) : NotesFatal s t := by
  unfold execFlush at h
  split at h <;> cases h
  · exact notesFatal_fragmentAndSend s.ob (subscriberAddrs s) { s with ob := [] }
  · exact notesFatal_reply s _

theorem notesFatal_sendCtrl {r : Byte} {a : Addr} {s t : State} (h : execSendCtrl r a s = .next t) :
    NotesFatal s t := by
  unfold execSendCtrl at h
  split at h
  · cases h
    exact notesFatal_reply s _
  · split at h <;> cases h
    · rw [notePending_eq]
      exact notesFatal_txBatch _ _ s
    · exact notesFatal_reply s _

theorem notesFatal_hdrEncode {ty r m : Byte} {l : U16} {i f : Byte} {v : U16} {s t : State}
    (h : execHdrEncode ty r m l i f v s = .next t) : NotesFatal s t := by
  unfold execHdrEncode at h
  split at h <;> cases h
  · exact notesFatal_replyWith s _
  · exact notesFatal_reply s _

/-- Every instruction but RESET notes its fatal calls in NEEDS_RESET and writes it no other way. -/
theorem notesFatal_of_exec {i : Instr} (hi : ∀ v p ty, i ≠ .reset v p ty) {s t : State} (h : exec i s = .next t) :
    NotesFatal s t := by
  cases i with
  | reset v p ty => exact absurd rfl (hi v p ty)
  | init v p ty => exact notesFatal_init h
  | shutdown => exact notesFatal_shutdown h
  | getPackets => exact notesFatal_getPackets h
  | push b => exact notesFatal_push h
  | flush => exact notesFatal_flush h
  | send b => cases h; exact notesFatal_sendData b _ s
  | sendTo a b => cases h; exact notesFatal_sendData b _ s
  | sendCtrl r a => exact notesFatal_sendCtrl h
  | isInitialized | needsReset | hasSubscribers | regLookup | hdrDecode => cases h; exact notesFatal_replyWith s _
  | hdrEncode => exact notesFatal_hdrEncode h
  | recv | pushFrame | connectFrame | ackFrame | disconnectFrame => exact notesFatal_receive h

theorem exec_reset_needsReset {v p : U16} {ty : Byte} {s t : State} (h : exec (.reset v p ty) s = .next t) :
    t.status.needsReset = (decide (3 < ty.toNat) && s.status.needsReset) := by
  by_cases hty : 3 < ty.toNat
  · cases (exec_reset_of_badArgument hty v p s).symm.trans h
    rw [decide_eq_true hty, Bool.true_and, State.reply_status]
  · obtain ⟨T, rfl⟩ := exists_nodeType (not_lt.1 hty)
    have hT : (T.bits.setWidth 8).toNat = T.bits.toNat := by cases T <;> rfl
    cases (exec_reset_spec hT v p s rfl).symm.trans h
    rw [decide_eq_false hty, Bool.false_and]

/-- Settles O53: RESET as `exec_reset_spec` says; any other instruction notes its fatal calls. -/
theorem needsResetWriteDiscipline : Obligations.NeedsResetWriteDiscipline := by
  intro s t i h
  refine ⟨?_, fun hi => (notesFatal_of_exec hi h).needsReset_iff⟩
  rintro v p ty rfl
  exact exec_reset_needsReset h

end Sys2Proof.Machine
end

section
/-! PROOFS of the encodings (O2 to O6, O9, O25): what each operand reader accepts is exactly what the encoder writes, so
the two decoders and the encoder are inverse to each other; byte 0 of a header; the header of an accepted datagram. -/
namespace Sys2Proof.Machine

/-! ### What each operand reader accepts (30_encoding R87, R90) -/

theorem noOperands_eq_ok {i j : Instr} {operands : Bytes} : noOperands i operands = .ok j ↔ operands = [] ∧ j = i := by
  cases operands <;> simp [noOperands, eq_comm]

theorem lifecycleOperands_eq_ok {mk : U16 → U16 → Byte → Instr} {operands : Bytes} {i : Instr} :
    lifecycleOperands mk operands = .ok i ↔ ∃ v p ty, operands = le16 v ++ le16 p ++ [ty] ∧ i = mk v p ty := by
  constructor
  · unfold lifecycleOperands
    split
    next v0 v1 p0 p1 ty => rintro ⟨⟩; exact ⟨rd16 v0 v1, rd16 p0 p1, ty, by simp, rfl⟩
    next => nofun
  · rintro ⟨v, p, ty, rfl, rfl⟩
    simp [lifecycleOperands, le16]

theorem bytesOperand_eq_some {operands data : Bytes} :
    bytesOperand operands = some data ↔ bytesFit data = true ∧ operands = bytesField data := by
  rw [bytesFit, decide_eq_true_iff, bytesField]
  constructor
  · unfold bytesOperand
    split
    next n0 n1 n2 n3 data' =>
      rw [Option.ite_none_right_eq_some]
      rintro ⟨hlen, ⟨⟩⟩
      rw [hlen, BitVec.ofNat_toNat, BitVec.setWidth_eq, le32_rd32]
      exact ⟨(rd32 n0 n1 n2 n3).isLt, rfl⟩
    next => nofun
  · rintro ⟨hfit, rfl⟩
    have hlen : (BitVec.ofNat 32 data.length).toNat = data.length := Nat.mod_eq_of_lt hfit
    simp [bytesOperand, le32, hlen]

theorem dataOperand_eq_ok {mk : Bytes → Instr} {operands : Bytes} {i : Instr} :
    dataOperand mk operands = .ok i ↔ ∃ data, bytesFit data = true ∧ operands = bytesField data ∧ i = mk data := by
  simp only [← and_assoc, ← bytesOperand_eq_some]
  unfold dataOperand
  cases bytesOperand operands <;> simp [eq_comm]

theorem sendToOperands_eq_ok {operands : Bytes} {i : Instr} :
    sendToOperands operands = .ok i ↔
      ∃ a data, bytesFit data = true ∧ operands = addrBytes a ++ bytesField data ∧ i = .sendTo a data := by
  constructor
  · unfold sendToOperands
    split
    next o0 o1 o2 o3 p0 p1 rest =>
      intro h
      obtain ⟨data, hfit, rfl, rfl⟩ := dataOperand_eq_ok.1 h
      exact ⟨_, data, hfit, by simp, rfl⟩
    next => nofun
  · rintro ⟨a, data, hfit, rfl, rfl⟩
    simp [sendToOperands, addrBytes, le16, dataOperand_eq_ok, hfit]

theorem sendCtrlOperands_eq_ok {operands : Bytes} {i : Instr} :
    sendCtrlOperands operands = .ok i ↔ ∃ r a, operands = r :: addrBytes a ∧ i = .sendCtrl r a := by
  constructor
  · unfold sendCtrlOperands
    split
    next r o0 o1 o2 o3 p0 p1 => rintro ⟨⟩; exact ⟨r, _, by rw [addrBytes_rdAddr], rfl⟩
    next => nofun
  · rintro ⟨r, a, rfl, rfl⟩
    simp [sendCtrlOperands, addrBytes, le16]

theorem regLookupOperands_eq_ok {operands : Bytes} {i : Instr} :
    regLookupOperands operands = .ok i ↔ ∃ a, operands = addrBytes a ∧ i = .regLookup a := by
  constructor
  · unfold regLookupOperands
    split
    next o0 o1 o2 o3 p0 p1 => rintro ⟨⟩; exact ⟨_, by rw [addrBytes_rdAddr], rfl⟩
    next => nofun
  · rintro ⟨a, rfl, rfl⟩
    simp [regLookupOperands, addrBytes, le16]

theorem hdrEncodeOperands_eq_ok {operands : Bytes} {i : Instr} :
    hdrEncodeOperands operands = .ok i ↔
      ∃ t r m l x f v, operands = t :: r :: m :: le16 l ++ [x, f] ++ le16 v ∧ i = .hdrEncode t r m l x f v := by
  constructor
  · unfold hdrEncodeOperands
    split
    next t r m l0 l1 x f v0 v1 => rintro ⟨⟩; exact ⟨t, r, m, _, x, f, _, by simp, rfl⟩
    next => nofun
  · rintro ⟨t, r, m, l, x, f, v, rfl, rfl⟩
    simp [hdrEncodeOperands, le16]

theorem hdrDecodeOperands_eq_ok {operands : Bytes} {i : Instr} :
    hdrDecodeOperands operands = .ok i ↔ ∃ b, operands = hdr7Bytes b ∧ i = .hdrDecode b := by
  constructor
  · unfold hdrDecodeOperands
    split
    next b0 b1 b2 b3 b4 b5 b6 => rintro ⟨⟩; exact ⟨_, rfl, rfl⟩
    next => nofun
  · rintro ⟨b, rfl, rfl⟩
    rfl

/-! ### Messages (30_encoding R86, R89) -/

/-- A command's message decodes to it. -/
theorem decodeCommand_encode {i : Instr} (hwf : i.wellFormed = true) (hcommand : i.sender? = none) :
    decodeCommand (encode i) = .ok i := by
  cases i with
  | init v p ty | reset v p ty => exact lifecycleOperands_eq_ok.2 ⟨v, p, ty, rfl, rfl⟩
  | shutdown | recv | getPackets | flush | isInitialized | needsReset | hasSubscribers => rfl
  | push data | send data => exact dataOperand_eq_ok.2 ⟨data, hwf, rfl, rfl⟩
  | sendTo a data => exact sendToOperands_eq_ok.2 ⟨a, data, hwf, rfl, rfl⟩
  | sendCtrl r a => exact sendCtrlOperands_eq_ok.2 ⟨r, a, rfl, rfl⟩
  | regLookup a => exact regLookupOperands_eq_ok.2 ⟨a, rfl, rfl⟩
  | hdrEncode t r m l x f v => exact hdrEncodeOperands_eq_ok.2 ⟨t, r, m, l, x, f, v, rfl, rfl⟩
  | hdrDecode b => rfl
  | pushFrame | connectFrame | ackFrame | disconnectFrame => cases hcommand

/-- A message that decodes is a command's message. -/
theorem encode_of_decodeCommand {m : Bytes} {i : Instr} (h : decodeCommand m = .ok i) :
    i.wellFormed = true ∧ i.sender? = none ∧ encode i = m := by
  cases m with
  | nil => cases h
  | cons op operands =>
    have hbyte {n : Nat} (hn : n < 256) (hop : op.toNat = n) : op = BitVec.ofNat 8 n :=
      BitVec.eq_of_toNat_eq (hop.trans (Nat.mod_eq_of_lt hn).symm)
    unfold decodeCommand at h
    dsimp only at h
    split at h <;> rename_i hop
    case h_17 => cases h
    all_goals obtain rfl := hbyte (by decide) hop
    case h_1 | h_2 => obtain ⟨v, p, ty, rfl, rfl⟩ := lifecycleOperands_eq_ok.1 h; exact ⟨rfl, rfl, rfl⟩
    case h_3 | h_4 | h_5 | h_7 | h_11 | h_12 | h_13 => obtain ⟨rfl, rfl⟩ := noOperands_eq_ok.1 h; exact ⟨rfl, rfl, rfl⟩
    case h_6 | h_8 => obtain ⟨data, hfit, rfl, rfl⟩ := dataOperand_eq_ok.1 h; exact ⟨hfit, rfl, rfl⟩
    case h_9 => obtain ⟨a, data, hfit, rfl, rfl⟩ := sendToOperands_eq_ok.1 h; exact ⟨hfit, rfl, rfl⟩
    case h_10 => obtain ⟨r, a, rfl, rfl⟩ := sendCtrlOperands_eq_ok.1 h; exact ⟨rfl, rfl, rfl⟩
    case h_14 => obtain ⟨a, rfl, rfl⟩ := regLookupOperands_eq_ok.1 h; exact ⟨rfl, rfl, rfl⟩
    case h_15 => obtain ⟨t, r, m, l, x, f, v, rfl, rfl⟩ := hdrEncodeOperands_eq_ok.1 h; exact ⟨rfl, rfl, rfl⟩
    case h_16 => obtain ⟨b, rfl, rfl⟩ := hdrDecodeOperands_eq_ok.1 h; exact ⟨rfl, rfl, rfl⟩

/-! ### Byte 0 and the frame kinds (30_encoding R82, R96) -/

/-- Byte 0 begins with the padding signature exactly if it lies in 0xA0 to 0xBF. -/
theorem padField_eq_signature_iff (b : Byte) :
    b.extractLsb' 5 3 = padSignature ↔ 0xA0 ≤ b.toNat ∧ b.toNat ≤ 0xBF := by
  rw [← BitVec.toNat_inj, BitVec.extractLsb'_toNat, Nat.shiftRight_eq_div_pow]
  change b.toNat / 32 % 8 = 5 ↔ _
  have hlt := b.isLt
  omega

/-- The mask and match table looks at the padding and `req` bits of byte 0. -/
theorem frameKind_eq_ite (b : Byte) :
    frameKind b = if b.extractLsb' 5 3 = padSignature then some (.ofBits (b.extractLsb' 2 2)) else none := by
  revert b; decide

theorem splitHeader_encodeHeader_append (h : Header) (rest : Bytes) :
    splitHeader (encodeHeader h ++ rest) = some (headerHdr7 h, rest) := rfl

theorem headerHdr7_padField (h : Header) : (headerHdr7 h).b0.extractLsb' 5 3 = padSignature :=
  congrArg Header.pad (decodeHeader_headerHdr7 h)

theorem frameKind_headerHdr7 (h : Header) : frameKind (headerHdr7 h).b0 = some h.req := by
  rw [frameKind_eq_ite, if_pos (headerHdr7_padField h)]
  exact congrArg (fun d => some d.req) (decodeHeader_headerHdr7 h)

/-! ### Datagrams (30_encoding R80, R85, 40_header_codec R125) -/

/-- A header with the padding signature is given by its kind and its open fields. -/
theorem fields_header_of_pad {h : Header} (hpad : h.pad = padSignature) : h.fields.header h.req = h := by
  rw [FrameFields.header, Header.fields, ← hpad]

/-- A frame with its declared payload decodes to its instruction, whatever bytes follow. -/
theorem decodeDatagram_frameBytes (kind : Req) (a : Addr) {f : FrameFields} {p : Bytes}
    (hfits : payloadFits f p = true) (rest : Bytes) :
    decodeDatagram a (frameBytes kind f p ++ rest) = .ok (frameInstr kind a f p) := by
  have hlen : f.payloadLength.toNat = p.length := (decide_eq_true_iff.1 hfits).symm
  have hdec : decodeHeader (headerHdr7 (f.header kind)) = f.header kind := decodeHeader_headerHdr7 _
  have hkind : frameKind (headerHdr7 (f.header kind)).b0 = some kind := frameKind_headerHdr7 _
  have hpresent : ¬ (p ++ rest).length < p.length := by rw [List.length_append]; omega
  rw [frameBytes, List.append_assoc, decodeDatagram, splitHeader_encodeHeader_append]
  dsimp only
  rw [hkind, hdec]
  simp only [FrameFields.header, Header.fields, hlen, if_neg hpresent, List.take_left]

/-- A datagram that decodes is a frame with its declared payload and ignored bytes after it. -/
theorem frameBytes_of_decodeDatagram {a : Addr} {d : Bytes} {i : Instr} (h : decodeDatagram a d = .ok i) :
    ∃ kind f p rest, i = frameInstr kind a f p ∧ payloadFits f p = true ∧ d = frameBytes kind f p ++ rest := by
  unfold decodeDatagram at h
  split at h
  next => cases h
  next b tail hsplit =>
    rw [frameKind_eq_ite] at h
    by_cases hpad : b.b0.extractLsb' 5 3 = padSignature
    · rw [if_pos hpad] at h
      dsimp only at h
      split at h <;> cases h
      rename_i hshort
      have hheader : (decodeHeader b).fields.header (decodeHeader b).req = decodeHeader b := fields_header_of_pad hpad
      refine ⟨(decodeHeader b).req, (decodeHeader b).fields, _, tail.drop (decodeHeader b).payloadLength.toNat, rfl,
        decide_eq_true ((List.length_take).trans (min_eq_left (not_lt.1 hshort))), ?_⟩
      rw [frameBytes, hheader, encodeHeader_decodeHeader hpad, List.append_assoc, List.take_append_drop]
      exact splitHeader_eq_some.1 hsplit
    · rw [if_neg hpad] at h
      cases h

theorem frameInstr_spec (kind : Req) (a : Addr) (f : FrameFields) (p : Bytes) :
    (frameInstr kind a f p).wellFormed = payloadFits f p ∧ (frameInstr kind a f p).sender? = some a ∧
      encode (frameInstr kind a f p) = frameBytes kind f p := by
  cases kind <;> exact ⟨rfl, rfl, rfl⟩

theorem exists_frameInstr {i : Instr} {a : Addr} (h : i.sender? = some a) :
    ∃ kind f p, i = frameInstr kind a f p := by
  cases i <;> cases h
  case pushFrame f p => exact ⟨.push, f, p, rfl⟩
  case connectFrame f p => exact ⟨.connect, f, p, rfl⟩
  case ackFrame f p => exact ⟨.ack, f, p, rfl⟩
  case disconnectFrame f p => exact ⟨.disconnect, f, p, rfl⟩

/-! ### The obligations -/

/-- Settles O4: a command's message is what its operand reader accepts, and a frame is its header and its payload. -/
theorem decodeOfEncode : Obligations.DecodeOfEncode := by
  refine fun i hwf => ⟨decodeCommand_encode hwf, fun a ha => ?_⟩
  obtain ⟨kind, f, p, rfl⟩ := exists_frameInstr ha
  obtain ⟨hfits, -, hbytes⟩ := frameInstr_spec kind a f p
  rw [hbytes, ← List.append_nil (frameBytes kind f p)]
  exact decodeDatagram_frameBytes kind a (hfits.symm.trans hwf) []

/-- Settles O5: each operand reader accepts nothing but what the encoder writes. -/
theorem encodeOfDecode : Obligations.EncodeOfDecode := by
  refine ⟨fun m i => encode_of_decodeCommand, fun a d i h => ?_⟩
  obtain ⟨kind, f, p, rest, rfl, hfits, rfl⟩ := frameBytes_of_decodeDatagram h
  obtain ⟨hwf, hsender, hbytes⟩ := frameInstr_spec kind a f p
  exact ⟨hwf.trans hfits, hsender, rest, by rw [hbytes]⟩

/-- Settles O2: byte 0 lies in the range exactly if its padding field is the signature, which Encode writes and Validity
asks for. -/
theorem paddingSignatureIsChecked : Obligations.PaddingSignatureIsChecked := by
  refine ⟨fun h => (padField_eq_signature_iff _).1 (headerHdr7_padField h), fun b hb => ?_⟩
  have hpad : (decodeHeader b).pad ≠ padSignature := fun hpad => by
    have hrange := (padField_eq_signature_iff b.b0).1 hpad
    omega
  rw [validity, beq_false_of_ne hpad, Bool.and_false]

/-- Settles O3: `frameKind_eq_ite`, read in the fields of the decoded header. -/
theorem frameKindsAgreeWithHeader : Obligations.FrameKindsAgreeWithHeader := fun b => frameKind_eq_ite b.b0

/-- Settles O6: each word is the encoding of what it was written for, followed by one ignored byte in the last. -/
theorem specWordsDecode : Obligations.SpecWordsDecode := by
  refine ⟨rfl, rfl, rfl, rfl, rfl, fun a => rfl⟩

/-- Settles O9: the four encodings are written out, and SEND_CTRL decodes back from its message. -/
theorem pseudoCommandsAreSendCtrl : Obligations.PseudoCommandsAreSendCtrl := by
  refine fun a => ⟨rfl, rfl, rfl, fun p => decodeCommand_encode ?_ ?_⟩ <;> cases p <;> rfl

/-- Settles O25: an accepted header is valid, so its padding is the signature and Encode writes the bytes it came
from. -/
theorem recordReproducesReceivedHeader : Obligations.RecordReproducesReceivedHeader := by
  intro d h p hparse
  obtain ⟨b, rest, rfl, rfl, hvalid, hlen, rfl⟩ := parseDatagram_eq_some.1 hparse
  obtain ⟨-, -, hpad⟩ := validity_iff.1 hvalid
  rw [encodeHeader_decodeHeader (pad_setWidth_eq_five.1 hpad)]
  exact ⟨rfl, rfl, (List.length_take).trans (min_eq_left hlen), hvalid⟩

end Sys2Proof.Machine
end

section
/-! PROOFS of the registry (O35, O37): what each table primitive does to the addresses a table holds (42_registry R182
to R184), and what a packet does to each table and to S.IQ (R185). -/
namespace Sys2Proof.Machine

/-! ### The addresses after a write (42_registry R182 to R184) -/

/-- Upsert keeps the addresses, or adds one that was not held. -/
theorem validAddrs_upsert (a : Addr) (ty : NodeType) (T : List Entry) :
    validAddrs (upsert a ty T) = validAddrs T ∨
      a ∉ validAddrs T ∧ (validAddrs (upsert a ty T)).Perm (a :: validAddrs T) := by
  unfold upsert
  split
  next i hfind => exact .inl (validAddrs_modify T i _ (fun _ => rfl) fun _ => rfl)
  next hfind =>
    split
    next => exact .inl rfl
    next j hfree =>
      obtain ⟨hlen, hinvalid, -⟩ := List.findIdx?_eq_some_iff_getElem.1 hfree
      exact .inr ⟨(findEntry_none T a).1 hfind,
        validAddrs_insert T j a ty T[j] (List.getElem?_eq_getElem hlen) (by simpa using hinvalid)⟩

/-- PendInsert keeps the addresses, or adds one that was not held. -/
theorem pendAddrs_pendInsert (a : Addr) (T : List PendEntry) :
    pendAddrs (pendInsert a T) = pendAddrs T ∨
      a ∉ pendAddrs T ∧ (pendAddrs (pendInsert a T)).Perm (a :: pendAddrs T) := by
  unfold pendInsert
  split
  next => exact .inl rfl
  next hfind =>
    split
    next => exact .inl rfl
    next j hfree =>
      obtain ⟨hlen, hinvalid, -⟩ := List.findIdx?_eq_some_iff_getElem.1 hfree
      exact .inr ⟨(findPend_none T a).1 hfind,
        pendAddrs_insert T j a T[j] (List.getElem?_eq_getElem hlen) (by simpa using hinvalid)⟩

theorem validAddrs_removeEntry_sublist (a : Addr) (T : List Entry) :
    (validAddrs (removeEntry a T)).Sublist (validAddrs T) := by
  unfold removeEntry
  split
  · exact validAddrs_invalidate T _
  · exact List.Sublist.refl _

theorem pendAddrs_removePend_sublist (a : Addr) (T : List PendEntry) :
    (pendAddrs (removePend a T)).Sublist (pendAddrs T) := by
  unfold removePend
  split
  · exact pendAddrs_invalidate T _
  · exact List.Sublist.refl _

theorem mem_validAddrs_iff {T : List Entry} {a : Addr} :
    a ∈ validAddrs T ↔ ∃ e ∈ T, e.valid = true ∧ e.addr = a := by simp [validAddrs, and_assoc]

theorem mem_pendAddrs_iff {T : List PendEntry} {a : Addr} :
    a ∈ pendAddrs T ↔ ∃ e ∈ T, e.valid = true ∧ e.addr = a := by simp [pendAddrs, and_assoc]

/-- A write to one place of a list keeps every element that does not stand there. -/
theorem mem_modify_of_ne {α : Type} {l : List α} {i : Nat} {x : α} (f : α → α) (hx : x ∈ l)
    (hne : ∀ y, l[i]? = some y → y ≠ x) : x ∈ l.modify i f := by
  obtain ⟨k, hk⟩ := List.mem_iff_getElem?.1 hx
  have hki : i ≠ k := fun h => hne x (h ▸ hk) rfl
  exact List.mem_iff_getElem?.2 ⟨k, by rw [List.getElem?_modify_ne f l hki, hk]⟩

/-- Remove takes no other address out of a table. -/
theorem mem_validAddrs_removeEntry {a b : Addr} (hne : b ≠ a) {T : List Entry} (hb : b ∈ validAddrs T) :
    b ∈ validAddrs (removeEntry a T) := by
  obtain ⟨e, he, hvalid, rfl⟩ := mem_validAddrs_iff.1 hb
  unfold removeEntry
  split
  next i hfind =>
    obtain ⟨hlen, hholds, -⟩ := List.findIdx?_eq_some_iff_getElem.1 hfind
    rw [Entry.holds, Bool.and_eq_true, beq_iff_eq] at hholds
    refine mem_validAddrs_iff.2 ⟨e, mem_modify_of_ne _ he ?_, hvalid, rfl⟩
    rw [List.getElem?_eq_getElem hlen]
    rintro y ⟨⟩ rfl
    exact hne hholds.2
  next => exact hb

/-- Remove takes no other address out of S.PEND. -/
theorem mem_pendAddrs_removePend {a b : Addr} (hne : b ≠ a) {T : List PendEntry} (hb : b ∈ pendAddrs T) :
    b ∈ pendAddrs (removePend a T) := by
  obtain ⟨e, he, hvalid, rfl⟩ := mem_pendAddrs_iff.1 hb
  unfold removePend
  split
  next i hfind =>
    obtain ⟨hlen, hholds, -⟩ := List.findIdx?_eq_some_iff_getElem.1 hfind
    rw [PendEntry.holds, Bool.and_eq_true, beq_iff_eq] at hholds
    refine mem_pendAddrs_iff.2 ⟨e, mem_modify_of_ne _ he ?_, hvalid, rfl⟩
    rw [List.getElem?_eq_getElem hlen]
    rintro y ⟨⟩ rfl
    exact hne hholds.2
  next => exact hb

/-! ### The sizes of the tables (10_state R30 to R32) -/

@[simp] theorem upsert_length (a : Addr) (ty : NodeType) (T : List Entry) : (upsert a ty T).length = T.length := by
  unfold upsert
  split
  · exact List.length_modify ..
  · split
    · rfl
    · exact List.length_set

@[simp] theorem pendInsert_length (a : Addr) (T : List PendEntry) : (pendInsert a T).length = T.length := by
  unfold pendInsert
  split
  · rfl
  · split
    · rfl
    · exact List.length_set

@[simp] theorem removeEntry_length (a : Addr) (T : List Entry) : (removeEntry a T).length = T.length := by
  unfold removeEntry
  split
  · exact List.length_modify ..
  · rfl

@[simp] theorem removePend_length (a : Addr) (T : List PendEntry) : (removePend a T).length = T.length := by
  unfold removePend
  split
  · exact List.length_modify ..
  · rfl

/-! ### PendInsert (42_registry R183) -/

theorem pendInsert_of_mem {T : List PendEntry} {a : Addr} (ha : a ∈ pendAddrs T) : pendInsert a T = T := by
  obtain ⟨i, hfind⟩ := Option.isSome_iff_exists.1 (findPend_isSome_iff.2 ha)
  simp only [pendInsert, hfind]

theorem pendInsert_of_full {T : List PendEntry} {a : Addr} (ha : a ∉ pendAddrs T) (hfull : ∀ e ∈ T, e.valid = true) :
    pendInsert a T = T := by
  have hfree : T.findIdx? (fun e => !e.valid) = none :=
    List.findIdx?_eq_none_iff.2 fun e he => by rw [hfull e he, Bool.not_true]
  simp only [pendInsert, (findPend_none T a).2 ha, hfree]

theorem pendInsert_of_free {T : List PendEntry} {a : Addr} {j : Nat} (ha : a ∉ pendAddrs T)
    (hfree : T.findIdx? (fun e => !e.valid) = some j) : pendInsert a T = T.set j { valid := true, addr := a } := by
  simp only [pendInsert, (findPend_none T a).2 ha, hfree]

/-! ### What a packet does to each table and to S.IQ (42_registry R185 to R189) -/

/-- A packet, everything it does: each kind writes its own tables, and PUSH alone writes S.IQ. -/
theorem applyPacket_spec (s : State) (pkt : Packet) :
    applyPacket s pkt =
      { s with
          iq := if pkt.hdr.req = .push ∧ pkt.hdr.payloadLength ≠ 0 ∧ s.iq.length ≠ s.params.iqCap then s.iq ++ [pkt]
            else s.iq
          sub := match pkt.hdr.req with
            | .push => s.sub
            | .connect => upsert pkt.sender pkt.hdr.type s.sub
            | .ack => s.sub
            | .disconnect => removeEntry pkt.sender s.sub
          pub := match pkt.hdr.req with
            | .push => s.pub
            | .connect => s.pub
            | .ack => upsert pkt.sender pkt.hdr.type s.pub
            | .disconnect => removeEntry pkt.sender s.pub
          pend := match pkt.hdr.req with
            | .push => s.pend
            | .connect => s.pend
            | .ack => removePend pkt.sender s.pend
            | .disconnect => s.pend } := by
  unfold applyPacket
  cases pkt.hdr.req with
  | push =>
    unfold pushDeliver
    by_cases hzero : pkt.hdr.payloadLength = 0
    · rw [if_pos hzero, if_neg fun h => h.2.1 hzero]
    · by_cases hfull : s.iq.length = s.params.iqCap
      · rw [if_neg hzero, if_pos hfull, if_neg fun h => h.2.2 hfull]
      · rw [if_neg hzero, if_neg hfull, if_pos ⟨rfl, hzero, hfull⟩]
  | connect | ack | disconnect => rfl

@[simp] theorem applyPacket_params (s : State) (pkt : Packet) : (applyPacket s pkt).params = s.params := by
  rw [applyPacket_eq]

/-! ### The obligations -/

/-- Settles O35: the entry Find answers decides, and for an address that is not held the first invalid entry. -/
theorem pendInsertKeepsInsertsOrDrops : Obligations.PendInsertKeepsInsertsOrDrops := by
  refine fun T a => ⟨pendInsert_of_mem, pendInsert_of_full, fun ha j e he hinvalid hbefore => pendInsert_of_free ha ?_⟩
  refine findIdx?_eq_some_of_first he (by rw [hinvalid, Bool.not_false]) fun i e' hi he' => ?_
  rw [hbefore i e' hi he', Bool.not_true]

/-- Settles O37: Upsert keeps every address and Remove keeps every other one; a packet removes from S.SUB and S.PUB as a
DISCONNECT and from S.PEND as an ACK. -/
theorem peersLeaveOnlyByTheirOwnFrames : Obligations.PeersLeaveOnlyByTheirOwnFrames := by
  intro s pkt a
  rw [applyPacket_spec]
  have hupsert {T : List Entry} (ha : a ∈ validAddrs T) : a ∈ validAddrs (upsert pkt.sender pkt.hdr.type T) := by
    rcases validAddrs_upsert pkt.sender pkt.hdr.type T with heq | ⟨-, hperm⟩
    · rwa [heq]
    · exact hperm.mem_iff.2 (List.mem_cons_of_mem _ ha)
  have hremove {T : List Entry} (ha : a ∈ validAddrs T) (hgone : a ∉ validAddrs (removeEntry pkt.sender T)) :
      pkt.sender = a := by
    by_contra hne
    exact hgone (mem_validAddrs_removeEntry (Ne.symm hne) ha)
  refine ⟨fun ha hgone => ?_, fun ha hgone => ?_, fun ha hgone => ?_⟩
  · dsimp only at hgone
    split at hgone
    · exact absurd ha hgone
    · exact absurd (hupsert ha) hgone
    · exact absurd ha hgone
    · exact ⟨‹_›, hremove ha hgone⟩
  · dsimp only at hgone
    split at hgone
    · exact absurd ha hgone
    · exact absurd ha hgone
    · exact absurd (hupsert ha) hgone
    · exact ⟨‹_›, hremove ha hgone⟩
  · dsimp only at hgone
    split at hgone
    · exact absurd ha hgone
    · exact absurd ha hgone
    · refine ⟨‹_›, ?_⟩
      by_contra hne
      exact hgone (mem_pendAddrs_removePend (Ne.symm hne) ha)
    · exact absurd ha hgone

end Sys2Proof.Machine
end

section
/-! PROOFS of the reassembly engine (O38, O41 to O44): the reference counter, which slot lookup finds, the one write by
which a fragment joins or opens a group, when a group is complete, and that a stable sort is unique (41_fragmentation). -/
namespace Sys2Proof.Machine

/-! ### NextRef (41_fragmentation R140) -/

theorem nextRef_toNat (c : Byte) : (nextRef c).toNat = c.toNat % 255 + 1 := by
  have hlt : c.toNat < 256 := c.isLt
  have hsucc : (c + 1).toNat = (c.toNat + 1) % 256 := BitVec.toNat_add c 1
  unfold nextRef
  split
  next hzero =>
    rw [hzero] at hsucc
    have hc : c.toNat = 255 := by change 0 = _ at hsucc; omega
    rw [hc]; rfl
  next hne =>
    have hc : c.toNat ≠ 255 := fun h => hne (BitVec.eq_of_toNat_eq (by rw [hsucc, h]; rfl))
    omega

theorem nextRef_iterate_toNat (c : Byte) (n : Nat) : (nextRef^[n + 1] c).toNat = (c.toNat + n) % 255 + 1 := by
  induction n with
  | zero => exact nextRef_toNat c
  | succ n ih => rw [Function.iterate_succ_apply', nextRef_toNat, ih]; omega

/-- Settles O38: after `n + 1` calls the counter is `(c + n) mod 255 + 1`. -/
theorem referencesCycleWithoutZero : Obligations.ReferencesCycleWithoutZero := by
  refine ⟨nextRef_ne_zero, fun c hc => if_neg fun h => hc ?_, rfl, fun c r hr => ?_⟩
  · exact (eq_neg_of_add_eq_zero_left h).trans rfl
  · have hc := c.isLt
    have hrlt := r.isLt
    have hrpos : r.toNat ≠ 0 := fun h => hr (BitVec.eq_of_toNat_eq h)
    have hreach (n : Nat) : nextRef^[n + 1] c = r ↔ (c.toNat + n) % 255 + 1 = r.toNat := by
      rw [← nextRef_iterate_toNat, BitVec.toNat_inj]
    refine ⟨(r.toNat + 509 - c.toNat) % 255 + 1, ⟨by omega, by omega, (hreach _).2 (by omega)⟩, fun m hpos hle hm => ?_⟩
    obtain ⟨m, rfl⟩ := Nat.exists_eq_add_of_le' hpos
    have := (hreach m).1 hm
    omega

/-! ### Lookup (41_fragmentation R143) -/

theorem findGroup_none_iff {rs : List Slot} {ref : Byte} :
    findGroup rs ref = none ↔ ∀ g ∈ rs, g.valid = true → g.key ≠ ref := by
  simp [findGroup, List.findIdx?_eq_none_iff]

theorem getElem?_of_findGroup {rs : List Slot} {ref : Byte} {j : Nat} (h : findGroup rs ref = some j) :
    ∃ g, rs[j]? = some g ∧ g.valid = true ∧ g.key = ref := by
  obtain ⟨hlen, hfound, -⟩ := List.findIdx?_eq_some_iff_getElem.1 h
  rw [Bool.and_eq_true, beq_iff_eq] at hfound
  exact ⟨rs[j], List.getElem?_eq_getElem hlen, hfound⟩

/-- Lookup finds the slot of a group no other valid slot shares the key of. -/
theorem findGroup_of_unique {rs : List Slot} {j : Nat} {g : Slot} (hj : rs[j]? = some g) (hvalid : g.valid = true)
    (hother : ∀ i g', i ≠ j → rs[i]? = some g' → g'.valid = true → g'.key ≠ g.key) : findGroup rs g.key = some j := by
  refine findIdx?_eq_some_of_first hj (by rw [hvalid, beq_self_eq_true, Bool.and_true]) fun i g' hi hg' => ?_
  rw [Bool.and_eq_false_imp, beq_eq_false_iff_ne]
  exact hother i g' hi.ne hg'

theorem key_ne_of_nodup {rs : List Slot} (hnodup : (validKeys rs).Nodup) {j : Nat} {g : Slot} (hj : rs[j]? = some g)
    (hvalid : g.valid = true) (i : Nat) (g' : Slot) (hij : i ≠ j) (hi : rs[i]? = some g') (hvalid' : g'.valid = true) :
    g'.key ≠ g.key := by
  have hdistinct := List.pairwise_iff_getElem.1 (List.pairwise_filter.1 (List.pairwise_map.1 hnodup))
  obtain ⟨hjlen, rfl⟩ := List.getElem?_eq_some_iff.1 hj
  obtain ⟨hilen, rfl⟩ := List.getElem?_eq_some_iff.1 hi
  rcases Nat.lt_or_gt_of_ne hij with hlt | hlt
  · exact hdistinct i j hilen hjlen hlt hvalid' hvalid
  · exact (hdistinct j i hjlen hilen hlt hvalid hvalid').symm

/-- Where no key stands twice, lookup finds the slot of any group. -/
theorem findGroup_of_nodup {rs : List Slot} (hnodup : (validKeys rs).Nodup) {j : Nat} {g : Slot} (hj : rs[j]? = some g)
    (hvalid : g.valid = true) : findGroup rs g.key = some j :=
  findGroup_of_unique hj hvalid (key_ne_of_nodup hnodup hj hvalid)

/-- With its slot released a key is found no more. -/
theorem findGroup_release {rs : List Slot} (hnodup : (validKeys rs).Nodup) {ref : Byte} {j : Nat}
    (hfind : findGroup rs ref = some j) : findGroup (rs.modify j Slot.release) ref = none := by
  obtain ⟨g, hj, hvalid, rfl⟩ := getElem?_of_findGroup hfind
  refine findGroup_none_iff.2 fun g' hg' hvalid' => ?_
  obtain ⟨i, hi⟩ := List.mem_iff_getElem?.1 hg'
  by_cases hij : i = j
  · subst hij
    rw [List.getElem?_modify_eq, hj] at hi
    cases hi
    cases hvalid'
  · rw [List.getElem?_modify_ne _ _ (Ne.symm hij)] at hi
    exact key_ne_of_nodup hnodup hj hvalid i g' hij hi hvalid'

theorem freeSlot_none_iff {rs : List Slot} : freeSlot rs = none ↔ ∀ g ∈ rs, g.valid = true := by
  simp [freeSlot, List.findIdx?_eq_none_iff]

theorem getElem?_of_freeSlot {rs : List Slot} {j : Nat} (h : freeSlot rs = some j) :
    ∃ g, rs[j]? = some g ∧ g.valid = false := by
  obtain ⟨hlen, hfound, -⟩ := List.findIdx?_eq_some_iff_getElem.1 h
  exact ⟨rs[j], List.getElem?_eq_getElem hlen, by simpa using hfound⟩

theorem staleAt_eq {s : State} {t : U32} {j : Nat} {g : Slot} (hj : s.rs[j]? = some g) :
    staleAt s t j = decide (s.params.staleMs.toNat < (t - g.ts).toNat) := by
  simp only [staleAt, hj]
  rfl

/-! ### The one write of a fragment (41_fragmentation R144 to R149) -/

/-- Slot `j` takes the group `g`; if that group is complete it is given up at once and its packet staged. -/
def putGroup (j : Nat) (g : Slot) (s : State) : State :=
  if complete g.members then
    { s with rs := s.rs.set j g.release, sl := s.sl ++ (reassembled g.members).toList }
  else { s with rs := s.rs.set j g }

theorem addToGroup_of_full {s : State} {j : Nat} {g : Slot} (hj : s.rs[j]? = some g)
    (hfull : g.members.length = s.params.groupMax) (m : Member) (t : U32) : addToGroup j m t s = s := by
  simp only [addToGroup, hj, hfull, if_true]

/-- A group with room takes the fragment and its time stamp. -/
theorem addToGroup_of_room {s : State} {j : Nat} {g : Slot} (hj : s.rs[j]? = some g)
    (hroom : g.members.length ≠ s.params.groupMax) (m : Member) (t : U32) :
    addToGroup j m t s = putGroup j { g with ts := t, members := g.members ++ [m] } s := by
  simp only [addToGroup, hj, if_neg hroom]
  rfl

theorem startGroup_of_full {s : State} (hfull : freeSlot s.rs = none) (m : Member) (t : U32) :
    startGroup m t s = s := by
  simp only [startGroup, hfull]

/-- A fragment opens a group of its own in the lowest free slot; nothing of what the slot held is left. -/
theorem startGroup_of_free {s : State} (hmax : 1 ≤ s.params.groupMax) {j : Nat} (hfree : freeSlot s.rs = some j)
    (m : Member) (t : U32) :
    startGroup m t s = putGroup j { valid := true, key := m.hdr.fragRef, ts := t, members := [m] } s := by
  obtain ⟨g, hj, -⟩ := getElem?_of_freeSlot hfree
  have hmodify := modify_eq_set_of_getElem? (Slot.start m.hdr.fragRef) hj
  have hlen := (List.getElem?_eq_some_iff.1 hj).1
  simp only [startGroup, hfree, hmodify]
  have hroom : (Slot.start m.hdr.fragRef g).members.length ≠ s.params.groupMax := by
    show 0 ≠ s.params.groupMax
    omega
  rw [addToGroup_of_room (s := { s with rs := s.rs.set j (Slot.start m.hdr.fragRef g) }) (List.getElem?_set_self hlen)
    hroom]
  simp only [putGroup, List.set_set]
  rfl

theorem processFrag_of_none {s : State} {m : Member} (h : findGroup s.rs m.hdr.fragRef = none) (t : U32) :
    processFrag m t s = startGroup m t s := by
  simp only [processFrag, h]

theorem processFrag_of_fresh {s : State} {m : Member} {t : U32} {j : Nat} (h : findGroup s.rs m.hdr.fragRef = some j)
    (hfresh : staleAt s t j = false) : processFrag m t s = addToGroup j m t s := by
  simp only [processFrag, h, hfresh, Bool.false_eq_true, if_false]

theorem processFrag_of_stale {s : State} {m : Member} {t : U32} {j : Nat} (h : findGroup s.rs m.hdr.fragRef = some j)
    (hstale : staleAt s t j = true) :
    processFrag m t s = startGroup m t { s with rs := s.rs.modify j Slot.release } := by
  simp only [processFrag, h, hstale, if_true]

/-- What ProcessFrag does: nothing, or it opens a group in a free slot, after it gave up a stale one, or it adds to the
group it found. -/
theorem processFrag_cases {s : State} (hmax : 1 ≤ s.params.groupMax) (m : Member) (t : U32) :
    processFrag m t s = s ∨
      (∃ rs j, (rs = s.rs ∧ findGroup s.rs m.hdr.fragRef = none ∨
          ∃ i, findGroup s.rs m.hdr.fragRef = some i ∧ rs = s.rs.modify i Slot.release) ∧ freeSlot rs = some j ∧
        processFrag m t s =
          putGroup j { valid := true, key := m.hdr.fragRef, ts := t, members := [m] } { s with rs := rs }) ∨
      ∃ j g, s.rs[j]? = some g ∧ g.valid = true ∧ g.key = m.hdr.fragRef ∧ g.members.length ≠ s.params.groupMax ∧
        processFrag m t s = putGroup j { g with ts := t, members := g.members ++ [m] } s := by
  cases hfind : findGroup s.rs m.hdr.fragRef with
  | none =>
    rw [processFrag_of_none hfind]
    cases hfree : freeSlot s.rs with
    | none => exact .inl (startGroup_of_full hfree m t)
    | some j => exact .inr (.inl ⟨s.rs, j, .inl ⟨rfl, rfl⟩, hfree, startGroup_of_free hmax hfree m t⟩)
  | some i =>
    obtain ⟨g, hi, hvalid, hkey⟩ := getElem?_of_findGroup hfind
    cases hstale : staleAt s t i with
    | false =>
      rw [processFrag_of_fresh hfind hstale]
      by_cases hfull : g.members.length = s.params.groupMax
      · exact .inl (addToGroup_of_full hi hfull m t)
      · exact .inr (.inr ⟨i, g, hi, hvalid, hkey, hfull, addToGroup_of_room hi hfull m t⟩)
    | true =>
      rw [processFrag_of_stale hfind hstale]
      cases hfree : freeSlot (s.rs.modify i Slot.release) with
      | none =>
        have hreleased : (s.rs.modify i Slot.release)[i]? = some g.release := by
          rw [List.getElem?_modify_eq, hi]
          rfl
        exact absurd (freeSlot_none_iff.1 hfree _ (List.mem_of_getElem? hreleased)) Bool.false_ne_true
      | some j =>
        exact .inr (.inl ⟨_, j, .inr ⟨i, rfl, rfl⟩, hfree,
          startGroup_of_free (s := { s with rs := s.rs.modify i Slot.release }) hmax hfree m t⟩)

/-! ### Completion and the stable sort (41_fragmentation R146 to R148) -/

theorem complete_iff {members : List Member} :
    complete members = true ↔ ∃ pre x post, members = pre ++ x :: post ∧ x.hdr.moreFrag = false ∧
      (∀ y ∈ pre, y.hdr.moreFrag = true) ∧ members.length = x.hdr.fragIndex.toNat + 1 := by
  have hfind (x : Member) : terminal members = some x ↔ x.hdr.moreFrag = false ∧
      ∃ pre post, members = pre ++ x :: post ∧ ∀ y ∈ pre, y.hdr.moreFrag = true := by
    simp [terminal, List.find?_eq_some_iff_append]
  unfold complete
  split
  next hnone =>
    simp only [Bool.false_eq_true, false_iff]
    rintro ⟨pre, x, post, hsplit, hx, hpre, -⟩
    rw [(hfind x).2 ⟨hx, pre, post, hsplit, hpre⟩] at hnone
    cases hnone
  next x hsome =>
    obtain ⟨hx, pre, post, hsplit, hpre⟩ := (hfind x).1 hsome
    rw [decide_eq_true_iff]
    refine ⟨fun hlen => ⟨pre, x, post, hsplit, hx, hpre, hlen⟩, ?_⟩
    rintro ⟨pre', x', post', hsplit', hx', hpre', hlen⟩
    rw [(hfind x').2 ⟨hx', pre', post', hsplit', hpre'⟩] at hsome
    cases hsome
    exact hlen

theorem complete_singleton {m : Member} :
    complete [m] = true ↔ m.hdr.moreFrag = false ∧ m.hdr.fragIndex = 0 := by
  have hzero : m.hdr.fragIndex = 0 ↔ [m].length = m.hdr.fragIndex.toNat + 1 := by
    rw [← BitVec.toNat_inj, List.length_singleton, Nat.right_eq_add]
    rfl
  rw [hzero]
  cases hmore : m.hdr.moreFrag <;> simp [complete, terminal, hmore]

theorem reassembled_singleton (m : Member) : reassembled [m] = some m := by simp [reassembled, sortByIndex]

/-- Ascending fragment index, as StableSortByIndex compares (41_fragmentation R148). -/
abbrev IndexLe (a b : Member) : Prop := a.hdr.fragIndex.toNat ≤ b.hdr.fragIndex.toNat

theorem sortByIndex_pairwise (l : List Member) : (sortByIndex l).Pairwise IndexLe := by
  have : Std.Total IndexLe := ⟨fun a b => Nat.le_total _ _⟩
  have : IsTrans Member IndexLe := ⟨fun a b c => Nat.le_trans⟩
  exact List.pairwise_insertionSort IndexLe l

/-- The sort is stable: members of one index stay in arrival order. -/
theorem filter_sortByIndex (l : List Member) (k : Byte) :
    (sortByIndex l).filter (fun a => a.hdr.fragIndex == k) = l.filter fun a => a.hdr.fragIndex == k := by
  have hequal : (l.filter fun a => a.hdr.fragIndex == k).Pairwise IndexLe := by
    refine List.pairwise_of_forall_mem_list fun a ha b hb => ?_
    simp only [List.mem_filter, beq_iff_eq] at ha hb
    exact (congrArg BitVec.toNat (ha.2.trans hb.2.symm)).le
  have hsub := (List.sublist_insertionSort hequal List.filter_sublist).filter fun a => a.hdr.fragIndex == k
  simp only [List.filter_filter, Bool.and_self] at hsub
  exact (hsub.eq_of_length ((sortByIndex_perm l).filter _).length_eq.symm).symm

theorem mem_iff_of_filter_eq {l l' : List Member}
    (hfilter : ∀ k : Byte, l.filter (fun a => a.hdr.fragIndex == k) = l'.filter fun a => a.hdr.fragIndex == k)
    (a : Member) : a ∈ l ↔ a ∈ l' := by
  have hat := congrArg (a ∈ ·) (hfilter a.hdr.fragIndex)
  simpa using hat

/-- A sorted list is given by its members of each index in order. -/
theorem eq_of_pairwise_of_filter_eq {l l' : List Member} (hl : l.Pairwise IndexLe) (hl' : l'.Pairwise IndexLe)
    (hfilter : ∀ k : Byte, l.filter (fun a => a.hdr.fragIndex == k) = l'.filter fun a => a.hdr.fragIndex == k) :
    l = l' := by
  have hmem := mem_iff_of_filter_eq hfilter
  induction l generalizing l' with
  | nil => exact (List.eq_nil_iff_forall_not_mem.2 fun a ha => by simpa using (hmem a).2 ha).symm
  | cons a l ih =>
    cases l' with
    | nil => simpa using (hmem a).1 List.mem_cons_self
    | cons b l' =>
      obtain ⟨ha, hltail⟩ := List.pairwise_cons.1 hl
      obtain ⟨hb, hltail'⟩ := List.pairwise_cons.1 hl'
      have hle : IndexLe a b := by
        rcases List.mem_cons.1 ((hmem b).2 List.mem_cons_self) with rfl | h
        · exact Nat.le_refl _
        · exact ha b h
      have hge : IndexLe b a := by
        rcases List.mem_cons.1 ((hmem a).1 List.mem_cons_self) with rfl | h
        · exact Nat.le_refl _
        · exact hb a h
      have hindex : a.hdr.fragIndex = b.hdr.fragIndex := BitVec.eq_of_toNat_eq (Nat.le_antisymm hle hge)
      have hhead := hfilter b.hdr.fragIndex
      simp only [List.filter_cons, hindex, beq_self_eq_true, if_true, List.cons.injEq] at hhead
      obtain ⟨rfl, -⟩ := hhead
      have htail (k : Byte) : l.filter (fun a => a.hdr.fragIndex == k) = l'.filter fun a => a.hdr.fragIndex == k := by
        have hk := hfilter k
        rw [List.filter_cons, List.filter_cons] at hk
        split at hk
        · exact List.tail_eq_of_cons_eq hk
        · exact hk
      exact congrArg (a :: ·) (ih hltail hltail' htail (mem_iff_of_filter_eq htail))

/-- Any stable sort by index is the engine's. -/
theorem sortByIndex_eq {l sorted : List Member} (hsorted : sorted.Pairwise IndexLe)
    (hstable : ∀ k : Byte, sorted.filter (fun a => a.hdr.fragIndex == k) = l.filter fun a => a.hdr.fragIndex == k) :
    sortByIndex l = sorted :=
  eq_of_pairwise_of_filter_eq (sortByIndex_pairwise l) hsorted fun k => (filter_sortByIndex l k).trans (hstable k).symm

theorem reassembled_of_sorted {l sorted : List Member} {last : Member} (hsort : sortByIndex l = sorted)
    (hlast : sorted.getLast? = some last) :
    reassembled l = some { sender := last.sender, hdr := last.hdr, payload := sorted.flatMap (·.payload) } := by
  simp only [reassembled, hsort, hlast]

theorem putGroup_of_incomplete {g : Slot} (h : complete g.members = false) (j : Nat) (s : State) :
    putGroup j g s = { s with rs := s.rs.set j g } := by
  simp only [putGroup, h, Bool.false_eq_true, if_false]

theorem putGroup_of_complete {g : Slot} (h : complete g.members = true) (j : Nat) (s : State) :
    putGroup j g s = { s with rs := s.rs.set j g.release, sl := s.sl ++ (reassembled g.members).toList } := by
  simp only [putGroup, h, if_true]

/-! ### The obligations -/

/-- Settles O41: no slot is found, so a group is started: in no slot, or in the first invalid one. -/
theorem fragmentOpensGroup : Obligations.FragmentOpensGroup := by
  intro s m t hmax hnone
  rw [processFrag_of_none (findGroup_none_iff.2 hnone)]
  refine ⟨fun hfull => startGroup_of_full (freeSlot_none_iff.2 hfull) m t, fun j g hj hinvalid hbefore hpart => ?_⟩
  have hfree : freeSlot s.rs = some j :=
    findIdx?_eq_some_of_first hj (by rw [hinvalid, Bool.not_false]) fun i g' hi hg' => by
      rw [hbefore i g' hi hg', Bool.not_true]
  have hincomplete : complete [m] = false := by
    rw [Bool.eq_false_iff, Ne, complete_singleton]
    rintro ⟨hmore, hindex⟩
    exact hpart.elim (fun h => by rw [hmore] at h; cases h) fun h => h hindex
  rw [startGroup_of_free hmax hfree, putGroup_of_incomplete hincomplete]

/-- A fragment of a group that is not stale is added to it. -/
theorem processFrag_of_group {s : State} {m : Member} {t : U32} {j : Nat} {g : Slot} (hnodup : (validKeys s.rs).Nodup)
    (hj : s.rs[j]? = some g) (hvalid : g.valid = true) (hkey : g.key = m.hdr.fragRef)
    (hfresh : (t - g.ts).toNat ≤ s.params.staleMs.toNat) : processFrag m t s = addToGroup j m t s :=
  processFrag_of_fresh (hkey ▸ findGroup_of_nodup hnodup hj hvalid)
    (by rw [staleAt_eq hj, decide_eq_false (not_lt.2 hfresh)])

/-- Settles O42: the group that lookup finds is written once, and it is not complete. -/
theorem fragmentJoinsGroup : Obligations.FragmentJoinsGroup := by
  intro s m t j g hnodup hj hvalid hkey hfresh
  rw [processFrag_of_group hnodup hj hvalid hkey hfresh]
  refine ⟨fun hfull => addToGroup_of_full hj hfull m t, fun hroom hpart => ?_⟩
  have hincomplete : complete (g.members ++ [m]) = false := by
    rw [Bool.eq_false_iff, Ne, complete_iff]
    rintro ⟨pre, x, post, hsplit, hx, hpre, hlen⟩
    rw [List.length_append] at hlen
    exact hpart pre x post hsplit hx hpre hlen
  rw [addToGroup_of_room hj hroom, putGroup_of_incomplete hincomplete]

/-- Settles O43: the group is complete, and a stable sort of its members is the engine's. -/
theorem fragmentCompletesGroup : Obligations.FragmentCompletesGroup := by
  intro s m t j g pre post sorted x last hnodup hj hvalid hkey hfresh hroom hsplit hx hpre hlen hsorted hstable hlast
  have hcomplete : complete (g.members ++ [m]) = true :=
    complete_iff.2 ⟨pre, x, post, hsplit, hx, hpre, by rw [List.length_append]; exact hlen⟩
  rw [processFrag_of_group hnodup hj hvalid hkey hfresh, addToGroup_of_room hj hroom, putGroup_of_complete hcomplete,
    reassembled_of_sorted (sortByIndex_eq hsorted hstable) hlast]
  rfl

/-- Settles O44: with the stale slot released no slot has the key, so both sides start a group in the same state. -/
theorem staleGroupIsDiscardedOnLookup : Obligations.StaleGroupIsDiscardedOnLookup := by
  intro s m t j g hnodup hj hvalid hkey hstale
  have hfind : findGroup s.rs m.hdr.fragRef = some j := hkey ▸ findGroup_of_nodup hnodup hj hvalid
  rw [processFrag_of_stale hfind (by rw [staleAt_eq hj, decide_eq_true hstale]),
    ← processFrag_of_none (s := { s with rs := s.rs.modify j Slot.release }) (findGroup_release hnodup hfind),
    modify_eq_set_of_getElem? Slot.release hj]
  rfl

end Sys2Proof.Machine
end

section
/-! PROOFS of reassembly (O45): the frames of one payload as numbered members, the group that collects them in whatever
order they arrive, and that the whole set sorts back to the payload (41_fragmentation R153). -/
namespace Sys2Proof.Machine

/-! ### The frames of a payload, by number (41_fragmentation R141) -/

/-- How many frames the batch that `s` makes of `b` has. -/
abbrev frameCount (s : State) (b : Bytes) : Nat := fragCount s.params b.length

theorem fragHeader_moreFrag_iff {s : State} {r : Byte} {b : Bytes} {i : Nat} :
    (fragHeader s r b i).moreFrag = true ↔ i + 1 < frameCount s b :=
  fragHeader_moreFrag s r b i

/-- Frame `i` of the batch that `s` makes of `b`. -/
def batchFrame (s : State) (b : Bytes) (i : Nat) : Bytes :=
  encodeHeader (fragHeader s (nextRef s.fragCtr) b i) ++ chunk s.params b i

/-- The member that frame `i` becomes when it is received from `src`. -/
def batchMember (s : State) (b : Bytes) (src : Addr) (i : Nat) : Member :=
  { sender := src, hdr := fragHeader s (nextRef s.fragCtr) b i, payload := chunk s.params b i }

/-- The index byte of a frame. -/
def frameIndex (d : Bytes) : Nat := (d.getD 3 0).toNat

theorem frameIndex_batchFrame (s : State) (b : Bytes) {i : Nat} (hi : i < 256) : frameIndex (batchFrame s b i) = i :=
  fragHeader_fragIndex_toNat s _ b hi

/-- What the reassembly of `b` rests on: the sender's side is legal, and the receiver has a free slot `j`, room in a
group for the whole batch, and no group of its reference. -/
structure CanCollect (sndr rcvr : State) (b : Bytes) (j : Nat) : Prop where
  legal : sndr.params.Legal
  nonempty : b ≠ []
  fits : b.length ≤ 256 * sndr.params.fragSize
  room : frameCount sndr b ≤ rcvr.params.groupMax
  noGroup : findGroup rcvr.rs (nextRef sndr.fragCtr) = none
  free : freeSlot rcvr.rs = some j

/-- What the receiver holds after some frames of the batch, the last of them at time `ts`: a group of just these in slot
`j`, and nothing staged; before the first frame, what it held at the start. -/
def Collected (rcvr w : State) (j : Nat) (ref : Byte) (ms : List Member) (ts : Option U32) : Prop :=
  w.params = rcvr.params ∧ w.sl = rcvr.sl ∧
    ((ms = [] ∧ w.rs = rcvr.rs) ∨
      ∃ t, ts = some t ∧ w.rs = rcvr.rs.set j { valid := true, key := ref, ts := t, members := ms })

/-- Whatever is collected so far, a write to slot `j` leaves nothing of it. -/
theorem Collected.set_rs {rcvr w : State} {j : Nat} {ref : Byte} {ms : List Member} {ts : Option U32}
    (hw : Collected rcvr w j ref ms ts) (g : Slot) : w.rs.set j g = rcvr.rs.set j g := by
  obtain ⟨-, -, ⟨-, hrs⟩ | ⟨t, -, hrs⟩⟩ := hw <;> rw [hrs]
  exact List.set_set _

section
variable {sndr rcvr : State} {b : Bytes} {j : Nat} (hcan : CanCollect sndr rcvr b j)
include hcan

theorem CanCollect.count_le : frameCount sndr b ≤ 256 :=
  (fragCount_le_iff hcan.legal.1).2 hcan.fits

theorem CanCollect.count_pos : 0 < frameCount sndr b := by
  rw [lt_fragCount_iff hcan.legal.1, Nat.zero_mul]
  exact List.length_pos_iff.2 hcan.nonempty

theorem CanCollect.frames_eq : (prepareFrag b sndr).1 =
    (List.range (frameCount sndr b)).map (batchFrame sndr b) := by
  rw [prepareFrag_of_ne_nil hcan.legal.1 hcan.nonempty]
  rfl

theorem CanCollect.index_eq (src : Addr) {i : Nat} (hi : i < frameCount sndr b) :
    (batchMember sndr b src i).hdr.fragIndex.toNat = i :=
  fragHeader_fragIndex_toNat sndr _ b (hi.trans_le hcan.count_le)

/-- A frame of the batch is accepted and goes to the engine as its member. -/
theorem CanCollect.acceptDatagram_eq (src : Addr) {i : Nat} (hi : i < frameCount sndr b) (t : U32)
    (w : State) : acceptDatagram t w (src, batchFrame sndr b i) =
      processFrag (batchMember sndr b src i) t (w.logCall (.rxPoll (.datagram src (batchFrame sndr b i)))) := by
  obtain ⟨hpos, hwidth, -⟩ := hcan.legal
  have hlen := fragHeader_payloadLength_toNat hwidth (nextRef sndr.fragCtr) b i
  have hvalid := fragHeader_validity (nextRef_ne_zero sndr.fragCtr) ((chunk_length_pos hpos hi).trans_eq hlen.symm)
  have hparse : parseDatagram (batchFrame sndr b i) = some (_, _) := parseDatagram_encodeHeader_append hvalid hlen
  unfold acceptDatagram
  rw [hparse]
  exact if_neg (nextRef_ne_zero sndr.fragCtr)

/-- Frames fed in any order are numbers fed in any order. -/
theorem CanCollect.exists_numbers {feed : List (Bytes × U32)}
    (hfeed : (feed.map Prod.fst).Perm (prepareFrag b sndr).1) :
    ∃ arr : List (Nat × U32), feed = arr.map (fun y => (batchFrame sndr b y.1, y.2)) ∧
      (arr.map Prod.fst).Perm (List.range (frameCount sndr b)) := by
  rw [hcan.frames_eq] at hfeed
  have hindex {i : Nat} (hi : i < frameCount sndr b) : frameIndex (batchFrame sndr b i) = i :=
    frameIndex_batchFrame sndr b (hi.trans_le hcan.count_le)
  refine ⟨feed.map fun x => (frameIndex x.1, x.2), ?_, ?_⟩
  · rw [List.map_map]
    refine (List.map_id feed).symm.trans (List.map_congr_left fun x hx => ?_)
    obtain ⟨i, hi, heq⟩ := List.mem_map.1 (hfeed.mem_iff.1 (List.mem_map_of_mem hx))
    have hx1 : batchFrame sndr b (frameIndex x.1) = x.1 := by rw [← heq, hindex (List.mem_range.1 hi)]
    exact Prod.ext hx1.symm rfl
  · have hnumbers := hfeed.map frameIndex
    rw [List.map_map, List.map_map] at hnumbers
    rw [List.map_map]
    refine hnumbers.trans (.of_eq ?_)
    exact (List.map_congr_left fun i hi => hindex (List.mem_range.1 hi)).trans (List.map_id _)

/-! ### When the batch is complete (41_fragmentation R147, R148) -/

theorem CanCollect.complete_iff (src : Addr) {idxs : List Nat} (hidxs : ∀ i ∈ idxs, i < frameCount sndr b) :
    complete (idxs.map (batchMember sndr b src)) = true ↔
      frameCount sndr b - 1 ∈ idxs ∧ idxs.length = frameCount sndr b := by
  have hpos := hcan.count_pos
  have hlast {i : Nat} (hi : i ∈ idxs) :
      (batchMember sndr b src i).hdr.moreFrag = false ↔ i = frameCount sndr b - 1 := by
    have hlt := hidxs i hi
    rw [← Bool.not_eq_true, batchMember, fragHeader_moreFrag_iff]
    omega
  constructor
  · intro h
    obtain ⟨pre, x, post, hsplit, hx, -, hlen⟩ := Machine.complete_iff.1 h
    obtain ⟨i, hi, rfl⟩ := List.mem_map.1 (hsplit ▸ List.mem_append_right pre List.mem_cons_self)
    rw [hcan.index_eq src (hidxs i hi), List.length_map, (hlast hi).1 hx] at hlen
    exact ⟨(hlast hi).1 hx ▸ hi, by omega⟩
  · rintro ⟨hmem, hlen⟩
    unfold complete
    split
    next hnone =>
      have hmore := List.find?_eq_none.1 hnone _ (List.mem_map_of_mem hmem)
      simp only [(hlast hmem).2 rfl, Bool.not_false, not_true_eq_false] at hmore
    next x hsome =>
      obtain ⟨i, hi, rfl⟩ := List.mem_map.1 (List.mem_of_find?_eq_some hsome)
      have hx := (hlast hi).1 (by simpa using List.find?_some hsome)
      rw [hcan.index_eq src (hidxs i hi), List.length_map, hlen]
      exact decide_eq_true (by omega)

/-- The whole batch sorts back to the order it was cut in. -/
theorem CanCollect.sortByIndex_eq (src : Addr) {idxs : List Nat}
    (hperm : idxs.Perm (List.range (frameCount sndr b))) :
    sortByIndex (idxs.map (batchMember sndr b src)) =
      (List.range (frameCount sndr b)).map (batchMember sndr b src) := by
  have hall := (sortByIndex_perm (idxs.map (batchMember sndr b src))).trans (hperm.map _)
  have hsorted : ((List.range (frameCount sndr b)).map (batchMember sndr b src)).Pairwise IndexLe := by
    refine List.pairwise_map.2 (List.Pairwise.imp_of_mem (fun {i k} hi hk hlt => ?_) List.pairwise_lt_range)
    rw [IndexLe, hcan.index_eq src (List.mem_range.1 hi), hcan.index_eq src (List.mem_range.1 hk)]
    exact hlt.le
  refine hall.eq_of_pairwise (fun x y hx hy hxy hyx => ?_) (sortByIndex_pairwise _) hsorted
  obtain ⟨i, hi, rfl⟩ := List.mem_map.1 (hall.mem_iff.1 hx)
  obtain ⟨k, hk, rfl⟩ := List.mem_map.1 hy
  rw [IndexLe, hcan.index_eq src (List.mem_range.1 hi), hcan.index_eq src (List.mem_range.1 hk)] at hxy hyx
  rw [Nat.le_antisymm hxy hyx]

/-- The whole batch yields the payload, under the header of its last frame. -/
theorem CanCollect.reassembled_eq (src : Addr) {idxs : List Nat}
    (hperm : idxs.Perm (List.range (frameCount sndr b))) :
    reassembled (idxs.map (batchMember sndr b src)) = some
      { sender := src, hdr := fragHeader sndr (nextRef sndr.fragCtr) b (frameCount sndr b - 1),
        payload := b } := by
  have hlast : ((List.range (frameCount sndr b)).map (batchMember sndr b src)).getLast? =
      some (batchMember sndr b src (frameCount sndr b - 1)) := by
    rw [List.getLast?_map, List.getLast?_range, if_neg hcan.count_pos.ne', Option.map_some]
  have hpayload : ((List.range (frameCount sndr b)).map (batchMember sndr b src)).flatMap (·.payload) = b := by
    rw [List.flatMap_map]
    exact chunksUpTo_fragCount_flatten hcan.legal.1 b
  rw [reassembled_of_sorted (hcan.sortByIndex_eq src hperm) hlast, hpayload]
  rfl

/-! ### The group that collects the batch (41_fragmentation R143 to R149) -/

/-- The next frame in time is written into the group in slot `j`. -/
theorem CanCollect.processFrag_eq {w : State} {ms : List Member} {ts : Option U32}
    (hw : Collected rcvr w j (nextRef sndr.fragCtr) ms ts) (hroom : ms.length < rcvr.params.groupMax) {t : U32}
    (htime : ∀ t', ts = some t' → (t - t').toNat ≤ rcvr.params.staleMs.toNat) (src : Addr) (i : Nat) :
    processFrag (batchMember sndr b src i) t w =
      putGroup j { valid := true, key := nextRef sndr.fragCtr, ts := t, members := ms ++ [batchMember sndr b src i] }
        w := by
  obtain ⟨hparams, -, ⟨rfl, hrs⟩ | ⟨t', rfl, hrs⟩⟩ := hw
  · rw [processFrag_of_none (hrs ▸ hcan.noGroup), startGroup_of_free (by rw [hparams]; omega) (hrs ▸ hcan.free)]
    rfl
  · obtain ⟨g, hj, -⟩ := getElem?_of_freeSlot hcan.free
    have hslot : w.rs[j]? = some { valid := true, key := nextRef sndr.fragCtr, ts := t', members := ms } := by
      rw [hrs, List.getElem?_set_self (List.getElem?_eq_some_iff.1 hj).1]
    have hfind : findGroup w.rs (batchMember sndr b src i).hdr.fragRef = some j := by
      refine findGroup_of_unique hslot rfl fun k g' hkj hg' hvalid => ?_
      rw [hrs, List.getElem?_set_ne (Ne.symm hkj)] at hg'
      exact findGroup_none_iff.1 hcan.noGroup g' (List.mem_of_getElem? hg') hvalid
    have hfresh : staleAt w t j = false := by
      rw [staleAt_eq hslot, hparams]
      exact decide_eq_false (not_lt.2 (htime t' rfl))
    rw [processFrag_of_fresh hfind hfresh, addToGroup_of_room hslot (by rw [hparams]; exact hroom.ne)]

/-- The frames of the batch that have arrived, in order, each at its time. -/
def feedFrames (sndr : State) (b : Bytes) (src : Addr) (arr : List (Nat × U32)) (rcvr : State) : State :=
  arr.foldl (fun w y => acceptDatagram y.2 w (src, batchFrame sndr b y.1)) rcvr

/-- One more frame in time: the group in slot `j` is written with all that have arrived. -/
theorem CanCollect.feedFrames_concat {src : Addr} {pre : List (Nat × U32)} {y : Nat × U32}
    (hw : Collected rcvr (feedFrames sndr b src pre rcvr) j (nextRef sndr.fragCtr)
      (pre.map fun y => batchMember sndr b src y.1) (pre.getLast?.map Prod.snd))
    (hidx : y.1 < frameCount sndr b) (hlen : pre.length < frameCount sndr b)
    (htime : (pre ++ [y]).IsChain fun x y => (y.2 - x.2).toNat ≤ rcvr.params.staleMs.toNat) :
    ∃ c, feedFrames sndr b src (pre ++ [y]) rcvr =
      putGroup j { valid := true, key := nextRef sndr.fragCtr, ts := y.2,
                   members := ((pre ++ [y]).map Prod.fst).map (batchMember sndr b src) }
        ((feedFrames sndr b src pre rcvr).logCall c) := by
  obtain ⟨-, -, hlast⟩ := List.isChain_append.1 htime
  have hlate (t : U32) (ht : pre.getLast?.map Prod.snd = some t) : (y.2 - t).toNat ≤ rcvr.params.staleMs.toNat := by
    obtain ⟨x, hx, rfl⟩ := Option.map_eq_some_iff.1 ht
    exact hlast x hx y rfl
  have hroom : (pre.map fun y => batchMember sndr b src y.1).length < rcvr.params.groupMax := by
    rw [List.length_map]
    exact hlen.trans_le hcan.room
  have hlogged (c : DriverCall) : Collected rcvr ((feedFrames sndr b src pre rcvr).logCall c) j (nextRef sndr.fragCtr)
      (pre.map fun y => batchMember sndr b src y.1) (pre.getLast?.map Prod.snd) := hw
  refine ⟨.rxPoll (.datagram src (batchFrame sndr b y.1)), ?_⟩
  rw [feedFrames, List.foldl_append, List.foldl_cons, List.foldl_nil, hcan.acceptDatagram_eq src hidx]
  refine (hcan.processFrag_eq (hlogged _) hroom hlate src y.1).trans ?_
  rw [List.map_map, List.map_append]
  rfl

/-- Fewer frames than the batch has are collected and stage nothing. -/
theorem CanCollect.collected_feedFrames (src : Addr) {arr : List (Nat × U32)}
    (hidxs : ∀ i ∈ arr.map Prod.fst, i < frameCount sndr b) (hlen : arr.length < frameCount sndr b)
    (htime : arr.IsChain fun x y => (y.2 - x.2).toNat ≤ rcvr.params.staleMs.toNat) :
    Collected rcvr (feedFrames sndr b src arr rcvr) j (nextRef sndr.fragCtr)
      (arr.map fun y => batchMember sndr b src y.1) (arr.getLast?.map Prod.snd) := by
  induction arr using List.reverseRecOn with
  | nil => exact ⟨rfl, rfl, .inl ⟨rfl, rfl⟩⟩
  | append_singleton pre y ih =>
    have hshort : pre.length < frameCount sndr b := by
      rw [List.length_append] at hlen
      omega
    have hw := ih (fun i hi => hidxs i (by rw [List.map_append]; exact List.mem_append_left _ hi)) hshort
      (List.isChain_append.1 htime).1
    obtain ⟨c, hfeed⟩ := hcan.feedFrames_concat hw (hidxs y.1 (by simp)) hshort htime
    have hincomplete : complete (((pre ++ [y]).map Prod.fst).map (batchMember sndr b src)) = false := by
      rw [← Bool.not_eq_true, hcan.complete_iff src hidxs, List.length_map]
      exact fun h => hlen.ne h.2
    rw [hfeed, putGroup_of_incomplete hincomplete]
    obtain ⟨hparams, hsl, -⟩ := id hw
    refine ⟨hparams, hsl, .inr ⟨y.2, by simp, ?_⟩⟩
    exact (hw.set_rs _).trans (by rw [List.map_map]; rfl)

/-- The last frame of the batch stages the payload and frees the slot. -/
theorem CanCollect.feedFrames_all (src : Addr) {pre : List (Nat × U32)} {y : Nat × U32}
    (hperm : ((pre ++ [y]).map Prod.fst).Perm (List.range (frameCount sndr b)))
    (htime : (pre ++ [y]).IsChain fun x y => (y.2 - x.2).toNat ≤ rcvr.params.staleMs.toNat) :
    (feedFrames sndr b src pre rcvr).sl = rcvr.sl ∧
      (feedFrames sndr b src (pre ++ [y]) rcvr).sl = rcvr.sl ++ [{
        sender := src, hdr := fragHeader sndr (nextRef sndr.fragCtr) b (frameCount sndr b - 1),
        payload := b }] ∧
      ∀ g ∈ (feedFrames sndr b src (pre ++ [y]) rcvr).rs, g.valid = true → g.key ≠ nextRef sndr.fragCtr := by
  have hlen : pre.length + 1 = frameCount sndr b := by
    simpa using hperm.length_eq
  have hidxs : ∀ i ∈ (pre ++ [y]).map Prod.fst, i < frameCount sndr b :=
    fun i hi => List.mem_range.1 (hperm.mem_iff.1 hi)
  have hw := hcan.collected_feedFrames src
    (fun i hi => hidxs i (by rw [List.map_append]; exact List.mem_append_left _ hi)) (by omega)
    (List.isChain_append.1 htime).1
  obtain ⟨c, hfeed⟩ := hcan.feedFrames_concat hw (hidxs y.1 (by simp)) (by omega) htime
  have hcomplete : complete (((pre ++ [y]).map Prod.fst).map (batchMember sndr b src)) = true := by
    refine (hcan.complete_iff src hidxs).2 ⟨hperm.mem_iff.2 (List.mem_range.2 ?_), ?_⟩
    · exact Nat.sub_lt hcan.count_pos Nat.one_pos
    · rw [hperm.length_eq, List.length_range]
  obtain ⟨-, hsl, -⟩ := id hw
  rw [hfeed, putGroup_of_complete hcomplete]
  refine ⟨hsl, ?_, fun g hg hvalid => ?_⟩
  · show (feedFrames sndr b src pre rcvr).sl ++ _ = _
    rw [hsl, hcan.reassembled_eq src hperm]
    rfl
  · change g ∈ (feedFrames sndr b src pre rcvr).rs.set j _ at hg
    rw [hw.set_rs] at hg
    rcases List.mem_or_eq_of_mem_set hg with hg | rfl
    · exact findGroup_none_iff.1 hcan.noGroup g hg hvalid
    · cases hvalid

end

/-! ### The obligation -/

/-- Settles O45: until the last frame the group in the free slot is incomplete; the last one completes it, whatever
order they came in. -/
theorem reassemblyRestoresPayload : Obligations.ReassemblyRestoresPayload := by
  rintro sndr rcvr b src feed u v hlegal hb hfits hperm htime hroom hnone ⟨g, hg, hinvalid⟩ rfl rfl
  obtain ⟨j, hfree⟩ : ∃ j, freeSlot rcvr.rs = some j := by
    refine Option.ne_none_iff_exists'.1 fun hfull => ?_
    rw [freeSlot_none_iff.1 hfull g hg] at hinvalid
    cases hinvalid
  rw [prepareFrag_of_ne_nil hlegal.1 hb, batchFrames_length] at hroom
  have hcan : CanCollect sndr rcvr b j := ⟨hlegal, hb, hfits, hroom, findGroup_none_iff.2 hnone, hfree⟩
  obtain ⟨arr, rfl, hnumbers⟩ := hcan.exists_numbers hperm
  have hne : arr ≠ [] := by
    rintro rfl
    exact hcan.count_pos.ne (by simpa using hnumbers.length_eq)
  obtain ⟨pre, y, rfl⟩ := (List.eq_nil_or_concat' arr).resolve_left hne
  obtain ⟨hbefore, hstaged, hgone⟩ := hcan.feedFrames_all src hnumbers (List.isChain_map _ |>.1 htime)
  have hlast : (prepareFrag b sndr).1.getLast? = some (batchFrame sndr b (frameCount sndr b - 1)) := by
    rw [hcan.frames_eq, List.getLast?_map, List.getLast?_range, if_neg hcan.count_pos.ne', Option.map_some]
  refine ⟨?_, _, _, hlast, ?_, ?_, ?_⟩
  · rw [← List.map_dropLast, List.dropLast_concat, List.foldl_map]
    exact hbefore
  · rw [← Bool.not_eq_true, fragHeader_moreFrag_iff]
    omega
  · rw [List.foldl_map]
    exact hstaged
  · rw [List.foldl_map]
    exact hgone

end Sys2Proof.Machine
end

section
/-! PROOFS of the receive cycle and the frames (O21 to O24, O26 to O32): which frames ParseDatagram accepts, the cycle
over one frame, the cycle over unfragmented PUSHes, and which groups a cycle leaves alone. -/
namespace Sys2Proof.Machine

/-! ### What ParseDatagram makes of a frame (40_header_codec R122, R125) -/

theorem parseDatagram_frameBytes (kind : Req) (f : FrameFields) (p : Bytes) :
    parseDatagram (frameBytes kind f p) =
      if validity (f.header kind) = true ∧ f.payloadLength.toNat ≤ p.length then
        some (f.header kind, p.take f.payloadLength.toNat)
      else none := by
  have hdec : decodeHeader (headerHdr7 (f.header kind)) = f.header kind := decodeHeader_headerHdr7 _
  have hlen : (f.header kind).payloadLength = f.payloadLength := rfl
  unfold parseDatagram
  rw [frameBytes, splitHeader_encodeHeader_append]
  dsimp only
  rw [hdec, hlen]
  by_cases hvalid : validity (f.header kind) = true
  · simp only [hvalid, Bool.not_true, Bool.false_eq_true, if_false, true_and]
    simp only [← not_lt, ite_not]
  · simp only [hvalid, Bool.not_false, if_true, Bool.false_eq_true, false_and, if_false]

/-- Validity of a frame's header (40_header_codec R122): a frame's padding is the signature. -/
theorem validity_frameHeader {kind : Req} {f : FrameFields} :
    validity (f.header kind) = true ↔
      (kind = .push → f.payloadLength ≠ 0) ∧ (f.moreFrag = true → f.fragRef ≠ 0) := by
  simp [validity, FrameFields.header, imp_iff_not_or]

theorem validity_of_parseDatagram {d : Bytes} {h : Header} {p : Bytes} (hparse : parseDatagram d = some (h, p)) :
    validity h = true := by
  obtain ⟨_, _, _, _, hvalid, _⟩ := parseDatagram_eq_some.1 hparse
  exact hvalid

theorem mem_acceptedMembers {arrivals : List (Addr × Bytes)} {m : Member} :
    m ∈ acceptedMembers arrivals ↔
      ∃ d, (m.sender, d) ∈ arrivals ∧ parseDatagram d = some (m.hdr, m.payload) := by
  simp only [acceptedMembers, List.mem_filterMap]
  constructor
  · rintro ⟨⟨a, d⟩, hd, hm⟩
    split at hm <;> cases hm
    exact ⟨d, hd, ‹_›⟩
  · rintro ⟨d, hd, hparse⟩
    exact ⟨_, hd, by rw [hparse]⟩

theorem validity_of_mem_acceptedMembers {arrivals : List (Addr × Bytes)} {m : Member}
    (hm : m ∈ acceptedMembers arrivals) : validity m.hdr = true := by
  obtain ⟨d, -, hparse⟩ := mem_acceptedMembers.1 hm
  exact validity_of_parseDatagram hparse

/-! ### The cycle over one frame (43_host_commands R205, log 8) -/

theorem exec_frameInstr (kind : Req) (a : Addr) (f : FrameFields) (p : Bytes) (s : State) :
    exec (frameInstr kind a f p) s = receive [(a, frameBytes kind f p)] .wouldBlock s := by cases kind <;> rfl

/-- A frame that ParseDatagram drops leaves the cycle with nothing but its eviction. -/
theorem exec_frame_of_rejected {kind : Req} {f : FrameFields} {p : Bytes} {s : State} (hinit : s.status.init = true)
    (hreject : parseDatagram (frameBytes kind f p) = none) (a : Addr) :
    exec (frameInstr kind a f p) s = .next
      { s with rs := evicted s.params s.env.now s.rs, sl := [],
               calls := s.calls ++ rxCalls [(a, frameBytes kind f p)] .wouldBlock,
               responses := s.responses ++ [[0]] } := by
  have hnone : acceptedMembers [(a, frameBytes kind f p)] = [] := by simp [acceptedMembers, hreject]
  rw [exec_frameInstr, receive, if_pos hinit]
  exact (receiveCycle_spec _ s { s with sl := [] } s (by rw [hnone]; rfl) rfl).1

/-- A frame that ParseDatagram accepts is routed, and what that stages goes through the registry pass. -/
theorem exec_frame_of_accepted {kind : Req} {a : Addr} {f : FrameFields} {p : Bytes} {s s1 s2 : State}
    (hinit : s.status.init = true) (hvalid : validity (f.header kind) = true) (hlen : f.payloadLength.toNat ≤ p.length)
    (h1 : s1 = routeFrame s.env.now
      { sender := a, hdr := f.header kind, payload := p.take f.payloadLength.toNat } { s with sl := [] })
    (h2 : s2 = s1.sl.foldl applyPacket s) :
    exec (frameInstr kind a f p) s = .next
      { s with rs := evicted s.params s.env.now s1.rs, iq := s2.iq, sub := s2.sub, pub := s2.pub, pend := s2.pend,
               sl := [], calls := s.calls ++ rxCalls [(a, frameBytes kind f p)] .wouldBlock,
               responses := s.responses ++ [[0]] } := by
  have hone : acceptedMembers [(a, frameBytes kind f p)] =
      [{ sender := a, hdr := f.header kind, payload := p.take f.payloadLength.toNat }] := by
    simp [acceptedMembers, parseDatagram_frameBytes, hvalid, hlen]
  rw [exec_frameInstr, receive, if_pos hinit]
  exact (receiveCycle_spec _ s s1 s2 (by rw [hone, h1]; rfl) h2).1

/-- An unfragmented frame is applied as the packet it is. -/
theorem exec_unfragmented {kind : Req} {a : Addr} {f : FrameFields} {p : Bytes} {s : State}
    (hinit : s.status.init = true) (href : f.fragRef = 0) (hmore : f.moreFrag = false)
    (hpush : kind = .push → f.payloadLength ≠ 0) (hlen : f.payloadLength.toNat ≤ p.length) :
    exec (frameInstr kind a f p) s = .next
      { applyPacket s { sender := a, hdr := f.header kind, payload := p.take f.payloadLength.toNat } with
          rs := evicted s.params s.env.now s.rs
          sl := []
          calls := s.calls ++ rxCalls [(a, frameBytes kind f p)] .wouldBlock
          responses := s.responses ++ [[0]] } := by
  have hvalid := validity_frameHeader.2 ⟨hpush, fun h => by rw [hmore] at h; cases h⟩
  rw [exec_frame_of_accepted hinit hvalid hlen (if_pos href).symm rfl, applyPacket_spec]
  simp only [List.nil_append, List.foldl_cons, List.foldl_nil, applyPacket_spec]

/-! ### Unfragmented PUSHes (42_registry R186) -/

theorem foldl_routeFrame_unfragmented {ms : List Member} (hms : ∀ m ∈ ms, m.hdr.fragRef = 0) (t : U32) (s : State) :
    ms.foldl (fun u m => routeFrame t m u) s = { s with sl := s.sl ++ ms } := by
  induction ms generalizing s with
  | nil => rw [List.append_nil]; rfl
  | cons m ms ih =>
    obtain ⟨hm, hms⟩ := List.forall_mem_cons.1 hms
    rw [List.foldl_cons, routeFrame, if_pos hm, ih hms]
    simp only [List.append_assoc, List.singleton_append]

/-- PUSH packets reach S.IQ in order as long as it has room. -/
theorem foldl_applyPacket_pushes {ms : List Packet} (hms : ∀ m ∈ ms, m.hdr.req = .push ∧ m.hdr.payloadLength ≠ 0)
    (s : State) (hcap : s.iq.length ≤ s.params.iqCap) :
    ms.foldl applyPacket s = { s with iq := s.iq ++ ms.take (s.params.iqCap - s.iq.length) } := by
  induction ms generalizing s with
  | nil => rw [List.take_nil, List.append_nil]; rfl
  | cons m ms ih =>
    obtain ⟨⟨hreq, hlen⟩, hms⟩ := List.forall_mem_cons.1 hms
    have hm : applyPacket s m = if s.iq.length = s.params.iqCap then s else { s with iq := s.iq ++ [m] } := by
      simp only [applyPacket, hreq, pushDeliver, if_neg hlen]
    rw [List.foldl_cons, hm]
    split_ifs with hfull
    · rw [ih hms s hcap, hfull, Nat.sub_self, List.take_zero, List.take_zero]
    · have hroom : s.params.iqCap - s.iq.length = s.params.iqCap - (s.iq ++ [m]).length + 1 := by
        rw [List.length_append, List.length_singleton]; omega
      rw [ih hms { s with iq := s.iq ++ [m] } (by simp only [List.length_append, List.length_singleton]; omega), hroom,
        List.take_succ_cons]
      simp only [List.append_assoc, List.singleton_append]

theorem payloadLength_ne_zero_of_validity {h : Header} (hvalid : validity h = true) (hreq : h.req = .push) :
    h.payloadLength ≠ 0 := by
  obtain ⟨hlen, -⟩ := validity_iff.1 hvalid
  exact hlen.resolve_left fun hne => hne (reqBits_setWidth_eq_zero.2 hreq)

/-! ### A message of one fragment (41_fragmentation R147) -/

/-- A fragment that is a whole message opens a group in the free slot and completes it in the one write. -/
theorem processFrag_of_oneFragment {s : State} {m : Member} {j : Nat} (hmax : 1 ≤ s.params.groupMax)
    (hnone : findGroup s.rs m.hdr.fragRef = none) (hfree : freeSlot s.rs = some j) (hmore : m.hdr.moreFrag = false)
    (hindex : m.hdr.fragIndex = 0) (t : U32) :
    processFrag m t s =
      { s with rs := s.rs.set j { valid := false, key := m.hdr.fragRef, ts := t, members := [] }
               sl := s.sl ++ [m] } := by
  rw [processFrag_of_none hnone, startGroup_of_free hmax hfree,
    putGroup_of_complete (complete_singleton.2 ⟨hmore, hindex⟩), reassembled_singleton]
  rfl

/-! ### The groups a frame leaves alone (41_fragmentation R143 to R151) -/

theorem addToGroup_getElem?_ne {i j : Nat} (hij : i ≠ j) (m : Member) (t : U32) (s : State) :
    (addToGroup j m t s).rs[i]? = s.rs[i]? := by
  unfold addToGroup
  split
  · rfl
  · split_ifs
    · rfl
    · exact List.getElem?_set_ne hij.symm
    · exact List.getElem?_set_ne hij.symm

theorem startGroup_getElem?_of_valid {s : State} {i : Nat} {g : Slot} (hi : s.rs[i]? = some g) (hvalid : g.valid = true)
    (m : Member) (t : U32) : (startGroup m t s).rs[i]? = some g := by
  unfold startGroup
  split
  next => exact hi
  next j hfree =>
    have hij : i ≠ j := by
      rintro rfl
      obtain ⟨g', hg', hinvalid⟩ := getElem?_of_freeSlot hfree
      rw [hi, Option.some.injEq] at hg'
      rw [hg', hinvalid] at hvalid
      cases hvalid
    rw [addToGroup_getElem?_ne hij, List.getElem?_modify_ne _ _ hij.symm, hi]

/-- A frame leaves every group with another key in its slot as it is. -/
theorem routeFrame_getElem?_of_key_ne {s : State} {i : Nat} {g : Slot} (hi : s.rs[i]? = some g)
    (hvalid : g.valid = true) {m : Member} (hkey : m.hdr.fragRef ≠ g.key) (t : U32) : (routeFrame t m s).rs[i]? = some g := by
  unfold routeFrame processFrag
  split_ifs
  · exact hi
  split
  next => exact startGroup_getElem?_of_valid hi hvalid m t
  next j hfind =>
    have hij : i ≠ j := by
      rintro rfl
      obtain ⟨g', hg', -, hkey'⟩ := getElem?_of_findGroup hfind
      rw [hi, Option.some.injEq] at hg'
      exact hkey (hkey'.symm.trans (congrArg Slot.key hg'.symm))
    split_ifs
    · exact startGroup_getElem?_of_valid (s := { s with rs := s.rs.modify j Slot.release })
        ((List.getElem?_modify_ne _ _ hij.symm).trans hi) hvalid m t
    · rw [addToGroup_getElem?_ne hij, hi]

theorem foldl_routeFrame_getElem?_of_key_ne {ms : List Member} {s : State} {i : Nat} {g : Slot}
    (hi : s.rs[i]? = some g) (hvalid : g.valid = true) (hkey : ∀ m ∈ ms, m.hdr.fragRef ≠ g.key) (t : U32) :
    (ms.foldl (fun u m => routeFrame t m u) s).rs[i]? = some g := by
  induction ms generalizing s with
  | nil => exact hi
  | cons m ms ih =>
    obtain ⟨hm, hms⟩ := List.forall_mem_cons.1 hkey
    exact ih (routeFrame_getElem?_of_key_ne hi hvalid hm t) hms

/-! ### The obligations -/

/-- Settles O21: the cycle never ends. -/
theorem recvHangsOnEndlessDatagrams : Obligations.RecvHangsOnEndlessDatagrams := by
  intro s hinit hend
  rw [exec_recv_of_init hinit, hend]
  rfl

/-- Settles O22: the drain loop stages every PUSH, and the registry pass delivers what fits. -/
theorem recvDeliversPushesInOrder : Obligations.RecvDeliversPushesInOrder := by
  intro s hinit hend hcap hpushes
  have hdrain := foldl_routeFrame_unfragmented (fun m hm => (hpushes m hm).1) s.env.now { s with sl := [] }
  have hdeliver := foldl_applyPacket_pushes (ms := acceptedMembers s.env.arrivals) (fun m hm =>
    ⟨(hpushes m hm).2, payloadLength_ne_zero_of_validity (validity_of_mem_acceptedMembers hm) (hpushes m hm).2⟩) s hcap
  rw [exec_recv_of_init hinit, hend]
  exact ⟨_, (receiveCycle_spec _ s _ _ hdrain.symm hdeliver.symm).1, rfl, rfl, rfl, rfl⟩

/-- Settles O23: eviction looks at every slot, and the drain loop leaves the groups of other keys alone. -/
theorem recvEvictsExactlyStaleGroups : Obligations.RecvEvictsExactlyStaleGroups := by
  intro s hinit hend
  rw [exec_recv_of_init hinit, hend]
  refine ⟨_, (receiveCycle_spec _ s _ _ rfl rfl).1, fun g hg hvalid => ?_, fun i g hi hvalid hkey hfresh => ?_⟩
  · obtain ⟨g', -, rfl⟩ := List.mem_map.1 hg
    split_ifs at hvalid ⊢ with hstale
    exact not_lt.1 fun hlt => hstale ⟨hvalid, hlt⟩
  · have hkept := foldl_routeFrame_getElem?_of_key_ne (s := { s with sl := [] }) hi hvalid hkey s.env.now
    rw [evicted, List.getElem?_map, hkept, Option.map_some, if_neg fun h => absurd h.2 (not_lt.2 hfresh)]

/-- Settles O24: the model's own `countField` is the way a number is written. -/
theorem getPacketsDrainsQueue : Obligations.GetPacketsDrainsQueue := by
  refine ⟨countField, fun n hn => by rw [countField, if_pos hn], fun n => rfl, fun s => ⟨rfl, ?_⟩⟩
  show (s.iq = [] → execGetPackets s = _) ∧ (s.iq ≠ [] → execGetPackets s = _)
  unfold execGetPackets
  split
  next hiq => exact ⟨fun _ => rfl, fun h => absurd hiq h⟩
  next p ps hiq =>
    rw [hiq]
    exact ⟨nofun, fun _ => rfl⟩

/-- Settles O26: ParseDatagram drops each of these frames. -/
theorem invalidFramesAreDropped : Obligations.InvalidFramesAreDropped := by
  rintro s t a f p hinit d rfl
  have hdropped (kind : Req) (hreject : ¬ (validity (f.header kind) = true ∧ f.payloadLength.toNat ≤ p.length)) :=
    exec_frame_of_rejected hinit (by rw [parseDatagram_frameBytes, if_neg hreject]) a
  refine ⟨fun hbad => ?_, ?_⟩
  · have hreject (kind : Req) : ¬ (validity (f.header kind) = true ∧ f.payloadLength.toNat ≤ p.length) := by
      rintro ⟨hvalid, hlen⟩
      obtain ⟨hmore, href⟩ | hshort := hbad
      · exact (validity_frameHeader.1 hvalid).2 hmore href
      · exact absurd hlen (not_le.2 hshort)
    refine ⟨?_, ?_, ?_, ?_⟩ <;> rintro rfl
    · exact hdropped .push (hreject .push)
    · exact hdropped .connect (hreject .connect)
    · exact hdropped .ack (hreject .ack)
    · exact hdropped .disconnect (hreject .disconnect)
  · rintro hzero rfl
    exact hdropped .push fun h => (validity_frameHeader.1 h.1).1 rfl hzero

/-- Settles O27: an unfragmented frame is applied as a packet. -/
theorem pushFrameIsDelivered : Obligations.PushFrameIsDelivered := by
  intro s a f p hinit href hmore hne hlen
  refine (exec_unfragmented (kind := .push) hinit href hmore (fun _ => hne) hlen).trans ?_
  rw [applyPacket_spec]
  by_cases hfull : s.iq.length = s.params.iqCap
  · simp only [FrameFields.header, hfull, ne_eq, not_true_eq_false, and_false, if_false, if_true]
  · simp only [FrameFields.header, hfull, ne_eq, hne, not_false_eq_true, and_self, if_false, if_true]

/-- Settles O28: an unfragmented frame is applied as a packet. -/
theorem connectFrameSubscribes : Obligations.ConnectFrameSubscribes :=
  fun _ _ _ _ hinit href hmore hlen => exec_unfragmented (kind := .connect) hinit href hmore nofun hlen

/-- Settles O29: an unfragmented frame is applied as a packet. -/
theorem ackFrameConfirms : Obligations.AckFrameConfirms :=
  fun _ _ _ _ hinit href hmore hlen => exec_unfragmented (kind := .ack) hinit href hmore nofun hlen

/-- Settles O30: an unfragmented frame is applied as a packet. -/
theorem disconnectFrameRemoves : Obligations.DisconnectFrameRemoves :=
  fun _ _ _ _ hinit href hmore hlen => exec_unfragmented (kind := .disconnect) hinit href hmore nofun hlen

/-- Settles O32: a frame that carries a reference is routed to the engine. -/
theorem fragmentFramesAreRouted : Obligations.FragmentFramesAreRouted := by
  intro s s1 s2 a f p kind hinit href hpush hlen h1 h2
  exact exec_frame_of_accepted hinit (validity_frameHeader.2 ⟨hpush, fun _ => href⟩) hlen
    (h1.trans (if_neg href).symm) h2

/-- Settles O31: the engine stages the packet in the cycle that received it. -/
theorem oneFragmentMessageCompletesAtOnce : Obligations.OneFragmentMessageCompletesAtOnce := by
  intro s a f p kind j hinit hmax href hmore hindex hpush hlen hnone hfree
  have hstaged := processFrag_of_oneFragment (s := { s with sl := [] })
    (m := { sender := a, hdr := f.header kind, payload := p.take f.payloadLength.toNat }) hmax hnone hfree hmore hindex
    s.env.now
  obtain ⟨_, hj, -⟩ := getElem?_of_freeSlot hfree
  refine ⟨_, s.rs.set j { valid := false, key := f.fragRef, ts := s.env.now, members := [] },
    fragmentFramesAreRouted s _ _ a f p kind hinit href hpush hlen hstaged.symm rfl,
    fun i hij => List.getElem?_set_ne hij.symm, fun g hg => ?_, ?_⟩
  · rw [List.getElem?_set_self (List.getElem?_eq_some_iff.1 hj).1, Option.mem_some_iff] at hg
    subst hg
    exact ⟨rfl, rfl⟩
  · simp only [List.nil_append, List.foldl_cons, List.foldl_nil, applyPacket_spec]
    rfl

end Sys2Proof.Machine
end

section
/-! PROOFS about every instruction (O10 to O12, O51, O52, O54, O55): what an instruction can do, said once (`Effect`), and
what follows from that for every one of them. -/
namespace Sys2Proof.Machine

/-! ### The codes of commands that passed their prologue (60_exceptions R260, R261) -/

/-- A code a command answers after its prologue: it is none of 9 to 13. -/
abbrev ResultCode.PastPrologue (code : ResultCode) : Prop := code.byte.toNat < 9

theorem ResultCode.byte_toNat_le (code : ResultCode) : code.byte.toNat ≤ 13 := by cases code <;> decide

theorem txCode_pastPrologue (len : Nat) (answer : TxAnswer) : (txCode len answer).PastPrologue := by
  rw [ResultCode.PastPrologue, txCode_byte]
  split
  · decide
  · split_ifs <;> decide

theorem firstError_pastPrologue {first code : ResultCode} (hfirst : first.PastPrologue) (hcode : code.PastPrologue) :
    (firstError first code).PastPrologue := by
  unfold firstError
  split
  · exact hcode
  · exact hfirst

theorem foldl_firstError_pastPrologue {codes : List ResultCode} (hcodes : ∀ c ∈ codes, c.PastPrologue) :
    (codes.foldl firstError .success).PastPrologue :=
  List.foldlRecOn codes firstError (by decide) fun _ hfirst c hc => firstError_pastPrologue hfirst (hcodes c hc)

theorem BatchOutcome.pastPrologue {e : PortAnswers} {sends : List (Addr × Bytes)} {made : Nat} {code : ResultCode}
    (h : BatchOutcome e sends made code) : code.PastPrologue := by
  rcases h with ⟨rfl, -⟩ | ⟨j, a, f, -, -, -, ⟨-, rfl⟩ | ⟨n, -, -, rfl⟩⟩ <;> decide

theorem openCode_pastPrologue (answer : OpenAnswer) : (openCode answer).PastPrologue := by cases answer <;> decide

theorem closeCode_pastPrologue (answer : CloseAnswer) : (closeCode answer).PastPrologue := by cases answer <;> decide

theorem prepareFrag_fragCtr_cases (b : Bytes) (s : State) :
    (prepareFrag b s).2.fragCtr = s.fragCtr ∨ (prepareFrag b s).2.fragCtr = nextRef s.fragCtr := by
  unfold prepareFrag
  split
  · exact .inl rfl
  · exact .inr rfl

/-! ### What an instruction can do -/

/-- What each instruction can do to a state `s` it runs in: every field that a case does not name stays. -/
inductive Effect (s : State) : Instr → State → Prop
  /-- It answers a code alone: a prologue code (43_host_commands R200), or NO_UPDATE. -/
  | refused (i : Instr) (code : ResultCode) : Effect s i (s.reply code)
  /-- It answers results. -/
  | answered (i : Instr) (results : Bytes) : Effect s i (s.replyWith results)
  /-- INIT or RESET past its prologue (43_host_commands R202, R203). -/
  | opened (i : Instr) (cfg : CfgReg) (status : Status) (env : PortAnswers) (made : List DriverCall) (code : ResultCode)
      (hi : (∃ v p ty, i = .init v p ty) ∨ ∃ v p ty, i = .reset v p ty) (hcode : code.PastPrologue) :
      Effect s i { s with cfg := cfg, status := status, env := env, calls := s.calls ++ made,
                          responses := s.responses ++ [[code.byte]] }
  /-- SHUTDOWN past its prologue (43_host_commands R204). -/
  | closed (status : Status) (env : PortAnswers) (made : List DriverCall) (code : ResultCode)
      (hcode : code.PastPrologue) :
      Effect s .shutdown { s with status := status, env := env, calls := s.calls ++ made,
                                  responses := s.responses ++ [[code.byte]] }
  /-- GET_PACKETS with packets to give (43_host_commands R207). -/
  | drained (results : Bytes) :
      Effect s .getPackets { s with iq := [], responses := s.responses ++ [ResultCode.success.byte :: results] }
  /-- PUSH with room for its data (43_host_commands R208). -/
  | appended (data : Bytes) (hroom : s.ob.length + data.length ≤ s.params.obCap) :
      Effect s (.push data) { s with ob := s.ob ++ data, responses := s.responses ++ [[ResultCode.success.byte]] }
  /-- FLUSH, SEND or SEND_TO past its prologue (43_host_commands R209 to R211). -/
  | sent (i : Instr) (ob : Bytes) (fragCtr : Byte) (needsReset : Bool) (env : PortAnswers) (made : List DriverCall)
      (code : ResultCode) (hi : i = .flush ∨ (∃ b, i = .send b) ∨ ∃ a b, i = .sendTo a b)
      (hob : ob = s.ob ∨ i = .flush ∧ ob = []) (hctr : fragCtr = s.fragCtr ∨ fragCtr = nextRef s.fragCtr)
      (hcode : code.PastPrologue) :
      Effect s i { s with ob := ob, fragCtr := fragCtr, status := { s.status with needsReset := needsReset },
                          env := env, calls := s.calls ++ made, responses := s.responses ++ [[code.byte]] }
  /-- SEND_CTRL past its prologue (43_host_commands R212). -/
  | controlled (r : Byte) (a : Addr) (pend : List PendEntry) (needsReset : Bool) (env : PortAnswers)
      (made : List DriverCall) (code : ResultCode) (hpend : pend = s.pend ∨ r = 1 ∧ pend = pendInsert a s.pend)
      (hcode : code.PastPrologue) :
      Effect s (.sendCtrl r a)
        { s with pend := pend, status := { s.status with needsReset := needsReset }, env := env,
                 calls := s.calls ++ made, responses := s.responses ++ [[code.byte]] }
  /-- RECV or a frame, a cycle that ends with WOULD_BLOCK (43_host_commands R205, R206): `s1` is the state after the
  drain loop, `s2` has the queue and the tables after the registry pass. -/
  | received (i : Instr) (arrivals : List (Addr × Bytes)) (s1 s2 : State) (hi : i = .recv ∨ i.sender? ≠ none)
      (h1 : s1 = (acceptedMembers arrivals).foldl (fun u m => routeFrame s.env.now m u) { s with sl := [] })
      (h2 : s2 = s1.sl.foldl applyPacket s) :
      Effect s i { s with rs := evicted s.params s.env.now s1.rs, iq := s2.iq, sub := s2.sub, pub := s2.pub,
                          pend := s2.pend, sl := [], calls := s.calls ++ rxCalls arrivals .wouldBlock,
                          responses := s.responses ++ [[ResultCode.success.byte]] }
  /-- RECV, a cycle that ends with ERROR (43_host_commands R205). -/
  | receiveFailed (i : Instr) (arrivals : List (Addr × Bytes)) (s1 : State) (hi : i = .recv ∨ i.sender? ≠ none)
      (h1 : s1 = (acceptedMembers arrivals).foldl (fun u m => routeFrame s.env.now m u) { s with sl := [] }) :
      Effect s i { s with rs := s1.rs, status := { s.status with needsReset := true }, sl := [],
                          calls := s.calls ++ rxCalls arrivals .error,
                          responses := s.responses ++ [[ResultCode.receiveFailure.byte]] }

theorem effect_init (v p : U16) (ty : Byte) {s t : State} (h : exec (.init v p ty) s = .next t) :
    Effect s (.init v p ty) t := by
  by_cases hbad : 3 < ty.toNat ∨ s.status.init = true
  · cases (exec_init_of_badArgument hbad v p).symm.trans h
    exact .refused _ _
  · obtain ⟨hty, hinit⟩ := not_or.1 hbad
    obtain ⟨T, rfl⟩ := exists_nodeType (not_lt.1 hty)
    have hT : (T.bits.setWidth 8).toNat = T.bits.toNat := by cases T <;> rfl
    cases (exec_init_of_legal hT (by simpa using hinit) v p).symm.trans h
    rw [openAndConfigure_eq]
    exact .opened _ _ _ s.env _ _ (.inl ⟨_, _, _, rfl⟩) (openCode_pastPrologue _)

theorem effect_reset (v p : U16) (ty : Byte) {s t : State} (h : exec (.reset v p ty) s = .next t) :
    Effect s (.reset v p ty) t := by
  by_cases hty : 3 < ty.toNat
  · cases (exec_reset_of_badArgument hty v p s).symm.trans h
    exact .refused _ _
  · obtain ⟨T, rfl⟩ := exists_nodeType (not_lt.1 hty)
    have hT : (T.bits.setWidth 8).toNat = T.bits.toNat := by cases T <;> rfl
    cases (exec_reset_spec hT v p s rfl).symm.trans h
    rw [List.append_assoc, List.append_assoc]
    exact .opened _ _ _ _ _ _ (.inr ⟨_, _, _, rfl⟩) (openCode_pastPrologue _)

theorem closeAndReport_eq (code : ResultCode) (u : State) :
    closeAndReport (code, u) =
      { u with status := { u.status with init := false }, calls := u.calls ++ [.closeSocket u.env.closeAns],
               responses := u.responses ++ [[(firstError code (closeCode u.env.closeAns)).byte]] } := rfl

theorem effect_shutdown {s t : State} (h : exec .shutdown s = .next t) : Effect s .shutdown t := by
  cases hinit : s.status.init with
  | false =>
    cases (if_neg (ne_true_of_eq_false hinit) : exec .shutdown s = _).symm.trans h
    exact .refused _ _
  | true =>
    cases (exec_shutdown_of_init hinit).symm.trans h
    rw [sendToAll_spec, closeAndReport_eq]
    simp only [List.append_assoc]
    refine .closed _ _ _ _ (firstError_pastPrologue (foldl_firstError_pastPrologue fun c hc => ?_)
      (closeCode_pastPrologue _))
    obtain ⟨i, -, rfl⟩ := List.mem_map.1 hc
    exact txCode_pastPrologue _ _

theorem effect_getPackets {s t : State} (h : exec .getPackets s = .next t) : Effect s .getPackets t := by
  change execGetPackets s = _ at h
  unfold execGetPackets at h
  split at h <;> cases h
  · exact .refused _ _
  · exact .drained _

theorem effect_push (data : Bytes) {s t : State} (h : exec (.push data) s = .next t) : Effect s (.push data) t := by
  change execPush data s = _ at h
  unfold execPush at h
  split at h <;> cases h
  · exact .refused _ _
  · exact .appended data (not_lt.1 ‹_›)

theorem effect_flush {s t : State} (h : exec .flush s = .next t) : Effect s .flush t := by
  change execFlush s = _ at h
  unfold execFlush at h
  split at h <;> cases h
  · obtain ⟨made, code, hbatch, hsent⟩ := fragmentAndSend_spec s.ob (subscriberAddrs s) { s with ob := [] }
    rw [hsent]
    exact .sent _ _ _ _ _ _ _ (.inl rfl) (.inr ⟨rfl, rfl⟩) (prepareFrag_fragCtr_cases s.ob { s with ob := [] })
      hbatch.pastPrologue
  · exact .refused _ _

/-- SEND and SEND_TO. -/
theorem effect_sendData {i : Instr} (hi : (∃ b, i = .send b) ∨ ∃ a b, i = .sendTo a b) (b : Bytes) (dests : List Addr)
    (s : State) : Effect s i (sendData b dests s) := by
  unfold sendData
  split_ifs
  · exact .refused _ _
  · exact .refused _ _
  · obtain ⟨made, code, hbatch, hsent⟩ := fragmentAndSend_spec b dests s
    rw [hsent]
    exact .sent _ _ _ _ _ _ _ (.inr hi) (.inl rfl) (prepareFrag_fragCtr_cases b s) hbatch.pastPrologue

theorem effect_sendCtrl (r : Byte) (a : Addr) {s t : State} (h : exec (.sendCtrl r a) s = .next t) :
    Effect s (.sendCtrl r a) t := by
  by_cases hbad : r = 0 ∨ 3 < r.toNat
  · cases (exec_sendCtrl_of_badArgument hbad a s).symm.trans h
    exact .refused _ _
  · obtain ⟨hne, hle⟩ := not_or.1 hbad
    obtain ⟨R, hR, rfl⟩ := exists_ctrlReq hne (not_lt.1 hle)
    rw [exec_sendCtrl_of_req hR, txBatch_single, notePending_eq] at h
    split at h <;> cases h
    · refine .controlled _ a _ _ _ _ _ ?_ (txCode_pastPrologue _ _)
      split_ifs with hconnect
      · exact .inr ⟨reqBits_setWidth_eq_one.2 hconnect.2, rfl⟩
      · exact .inl rfl
    · exact .refused _ _

theorem effect_hdrEncode (ty r m : Byte) (l : U16) (x f : Byte) (v : U16) {s t : State}
    (h : exec (.hdrEncode ty r m l x f v) s = .next t) : Effect s (.hdrEncode ty r m l x f v) t := by
  rw [exec_hdrEncode] at h
  unfold execHdrEncode at h
  split at h <;> cases h
  · exact .answered _ _
  · exact .refused _ _

/-- RECV and the frames. -/
theorem effect_receive {i : Instr} (hi : i = .recv ∨ i.sender? ≠ none) {arrivals : List (Addr × Bytes)} {fin : RxEnd}
    {s t : State} (h : receive arrivals fin s = .next t) : Effect s i t := by
  unfold receive at h
  split at h
  · obtain ⟨hblock, herror⟩ := receiveCycle_spec arrivals s _ _ rfl rfl
    cases fin with
    | wouldBlock =>
      cases hblock.symm.trans h
      exact .received i arrivals _ _ hi rfl rfl
    | error =>
      cases herror.symm.trans h
      exact .receiveFailed i arrivals _ hi rfl
    | endless => cases h
  · cases h
    exact .refused _ _

/-- An instruction that goes on does what `Effect` says. -/
theorem effect_of_exec {i : Instr} {s t : State} (h : exec i s = .next t) : Effect s i t := by
  cases i with
  | init v p ty => exact effect_init v p ty h
  | reset v p ty => exact effect_reset v p ty h
  | shutdown => exact effect_shutdown h
  | getPackets => exact effect_getPackets h
  | push data => exact effect_push data h
  | flush => exact effect_flush h
  | send b => cases h; exact effect_sendData (.inl ⟨b, rfl⟩) b _ s
  | sendTo a b => cases h; exact effect_sendData (.inr ⟨a, b, rfl⟩) b _ s
  | sendCtrl r a => exact effect_sendCtrl r a h
  | isInitialized | needsReset | hasSubscribers | regLookup | hdrDecode => cases h; exact .answered _ _
  | hdrEncode ty r m l x f v => exact effect_hdrEncode ty r m l x f v h
  | recv => exact effect_receive (.inl rfl) h
  | pushFrame | connectFrame | ackFrame | disconnectFrame => exact effect_receive (.inr (by nofun)) h

/-! ### What every instruction does -/

/-- One response, whose code stands alone unless it is SUCCESS (30_encoding R88). -/
theorem Effect.responses_eq {s t : State} {i : Instr} (h : Effect s i t) :
    ∃ (code : ResultCode) (results : Bytes), t.responses = s.responses ++ [code.byte :: results] ∧
      (code ≠ .success → results = []) := by
  cases h with
  | answered results | drained results => exact ⟨.success, _, rfl, fun h => absurd rfl h⟩
  | _ => exact ⟨_, [], rfl, fun _ => rfl⟩

/-- Driver calls are only added, and the host port and the parameters stay. -/
theorem Effect.outside {s t : State} {i : Instr} (h : Effect s i t) :
    (∃ made, t.calls = s.calls ++ made) ∧ t.host = s.host ∧ t.params = s.params := by
  cases h with
  | refused | answered | drained | appended => exact ⟨⟨[], (List.append_nil _).symm⟩, rfl, rfl⟩
  | _ => exact ⟨⟨_, rfl⟩, rfl, rfl⟩

/-- An instruction whose one response byte is a prologue code did nothing but give it. -/
theorem Effect.eq_of_prologueCode {s t : State} {i : Instr} (h : Effect s i t) {c : Byte}
    (hresponse : t.responses = s.responses ++ [[c]]) (hc : 9 ≤ c.toNat) :
    t = { s with responses := s.responses ++ [[c]] } := by
  have hcode {code : ResultCode} {results : Bytes}
      (h : s.responses ++ [code.byte :: results] = s.responses ++ [[c]]) : code.byte = c :=
    (List.cons.inj (List.cons.inj (List.append_cancel_left h)).1).1
  have hpast {code : ResultCode} (hpast : code.PastPrologue) (h : s.responses ++ [[code.byte]] = s.responses ++ [[c]]) :
      False := by
    rw [← hcode h] at hc
    exact absurd hpast (not_lt.2 hc)
  have hsuccess {results : Bytes} (h : s.responses ++ [ResultCode.success.byte :: results] = s.responses ++ [[c]]) :
      False := by
    rw [← hcode h] at hc
    exact absurd hc (by decide)
  cases h with
  | refused => rw [← hcode hresponse]; rfl
  | answered | drained | appended | received => exact (hsuccess hresponse).elim
  | opened | closed | sent | controlled => exact (hpast ‹_› hresponse).elim
  | receiveFailed => exact (hpast (by decide) hresponse).elim

/-! ### The step -/

theorem step_of_decodeCommand_ok {s : State} {message : Bytes} {answers : PortAnswers} {rest : List HostEvent}
    {i : Instr} (hhost : s.host = .command message answers :: rest) (hdec : decodeCommand message = .ok i) :
    step s = exec i (s.loadCommand answers rest) := by
  unfold step
  rw [hhost]
  simp only [hdec]

theorem step_of_idle {s : State} (hhost : s.host = []) : step s = .next s := by
  unfold step
  rw [hhost]

theorem step_of_powerOn {s : State} {rest : List HostEvent} (hhost : s.host = .powerOn :: rest) :
    step s = .next (s.powerOnReset rest) := by
  unfold step
  rw [hhost]

/-- A message is answered as `Effect` says: a refused one with its code alone, as any instruction may. -/
theorem effect_of_step {s t : State} {message : Bytes} {answers : PortAnswers} {rest : List HostEvent}
    (hhost : s.host = .command message answers :: rest) (h : step s = .next t) :
    ∃ i, Effect (s.loadCommand answers rest) i t := by
  cases hdec : decodeCommand message with
  | ok i => exact ⟨i, effect_of_exec ((step_of_decodeCommand_ok hhost hdec).symm.trans h)⟩
  | error e =>
    cases (step_of_decodeCommand_error hhost hdec).symm.trans h
    exact ⟨.recv, .refused _ (rejectCode e)⟩

/-- What a step that goes on does: it idles, resets, or answers a message. -/
theorem step_cases {s t : State} (h : step s = .next t) :
    t = s ∨ (∃ rest, t = s.powerOnReset rest) ∨ ∃ answers rest i, Effect (s.loadCommand answers rest) i t := by
  match hhost : s.host with
  | [] =>
    cases (step_of_idle hhost).symm.trans h
    exact .inl rfl
  | .powerOn :: rest =>
    cases (step_of_powerOn hhost).symm.trans h
    exact .inr (.inl ⟨rest, rfl⟩)
  | .command message answers :: rest => exact .inr (.inr ⟨answers, rest, effect_of_step hhost h⟩)

/-! ### The obligations -/

/-- Settles O10: the step decodes the message and executes the command on the loaded state. -/
theorem stepRunsDecodedCommand : Obligations.StepRunsDecodedCommand :=
  ⟨fun _ _ _ _ _ hhost hdec => step_of_decodeCommand_ok hhost hdec, fun _ => step_of_idle⟩

/-- Settles O11: RECV over the one arrival is the cycle that `exec_frameInstr` says the frame is. -/
theorem stepRunsReceivedFrame : Obligations.StepRunsReceivedFrame := by
  intro s answers rest i a hi hhost harrivals hend
  obtain ⟨kind, f, p, rfl⟩ := exists_frameInstr hi
  obtain ⟨-, -, hbytes⟩ := frameInstr_spec kind a f p
  have hrecv : exec .recv (s.loadCommand answers rest) =
      receive answers.arrivals answers.rxEnd (s.loadCommand answers rest) := rfl
  rw [step_of_decodeCommand_ok (i := .recv) hhost rfl, hrecv, harrivals, hend, hbytes, ← exec_frameInstr]
  rfl

/-- Settles O12: each array is a row of invalid cells. -/
theorem powerOnValues : Obligations.PowerOnValues := by
  intro s p rest
  have hcells {α : Type} {q : α → Prop} {x : α} (hx : q x) (n : Nat) : ∀ y ∈ List.replicate n x, q y :=
    fun y hy => List.eq_of_mem_replicate hy ▸ hx
  refine ⟨_, step_of_powerOn rfl, rfl, rfl, rfl, ?_⟩
  rintro u (rfl | rfl) <;>
    exact ⟨rfl, rfl, rfl, rfl, rfl, rfl, List.length_replicate, hcells ⟨rfl, rfl⟩ _, List.length_replicate,
      hcells (by rfl) _, List.length_replicate, hcells (by rfl) _, List.length_replicate, hcells (by rfl) _⟩

/-- Settles O51: the prologue asks for INIT. -/
theorem socketCommandsNeedInit : Obligations.SocketCommandsNeedInit := by
  intro s i hinit hi
  have hif : ¬ s.status.init = true := ne_true_of_eq_false hinit
  obtain rfl | rfl | rfl | ⟨b, rfl⟩ | ⟨a, b, rfl⟩ | ⟨r, a, rfl, hne, hle⟩ | ⟨a, ha⟩ := hi
  · exact if_neg hif
  · exact if_neg hif
  · exact if_neg hif
  · rw [exec_send, sendData_of_not_init hinit]; rfl
  · rw [exec_sendTo, sendData_of_not_init hinit]; rfl
  · obtain ⟨R, hR, rfl⟩ := exists_ctrlReq hne hle
    rw [exec_sendCtrl_of_req hR]
    exact if_neg hif
  · obtain ⟨kind, f, p, rfl⟩ := exists_frameInstr ha
    rw [exec_frameInstr]
    exact if_neg hif

/-- Settles O52: `Effect.eq_of_prologueCode`. -/
theorem prologueCodesChangeNothing : Obligations.PrologueCodesChangeNothing :=
  fun _ _ _ _ h => (effect_of_exec h).eq_of_prologueCode

/-- Settles O54: each case of `Effect` names the fields it writes and the instructions it is about. -/
theorem onlyTheirWritersChangeFields : Obligations.OnlyTheirWritersChangeFields := by
  intro s t i h
  cases effect_of_exec h with
  | refused | answered =>
    exact ⟨rfl, rfl, fun _ _ => rfl, fun _ _ _ => rfl, fun _ _ _ => rfl, .inl rfl, fun _ _ => rfl,
      fun _ _ => ⟨rfl, rfl, rfl, rfl⟩, fun _ _ _ => rfl, fun _ _ _ => rfl⟩
  | opened _ cfg status env made code hi =>
    have hopens {q : Prop} (hinit : ∀ v p ty, i ≠ .init v p ty) (hreset : ∀ v p ty, i ≠ .reset v p ty) : q := by
      obtain ⟨v, p, ty, hi⟩ | ⟨v, p, ty, hi⟩ := hi
      · exact absurd hi (hinit v p ty)
      · exact absurd hi (hreset v p ty)
    exact ⟨rfl, rfl, hopens, fun h1 h2 _ => hopens h1 h2, fun _ _ _ => rfl, .inl rfl, fun _ _ => rfl,
      fun _ _ => ⟨rfl, rfl, rfl, rfl⟩, fun _ _ _ => rfl, fun _ _ _ => rfl⟩
  | closed =>
    exact ⟨rfl, rfl, fun _ _ => rfl, fun _ _ h => absurd rfl h, fun _ _ _ => rfl, .inl rfl, fun _ _ => rfl,
      fun _ _ => ⟨rfl, rfl, rfl, rfl⟩, fun _ _ _ => rfl, fun _ _ _ => rfl⟩
  | drained =>
    exact ⟨rfl, rfl, fun _ _ => rfl, fun _ _ _ => rfl, fun _ _ _ => rfl, .inl rfl, fun _ _ => rfl,
      fun _ _ => ⟨rfl, rfl, rfl, rfl⟩, fun _ _ h => absurd rfl h, fun _ _ _ => rfl⟩
  | appended data =>
    exact ⟨rfl, rfl, fun _ _ => rfl, fun _ _ _ => rfl, fun _ _ _ => rfl, .inl rfl, fun h _ => absurd rfl (h data),
      fun _ _ => ⟨rfl, rfl, rfl, rfl⟩, fun _ _ _ => rfl, fun _ _ _ => rfl⟩
  | sent _ ob fragCtr needsReset env made code hi hob hctr =>
    have hsends (hflush : i ≠ .flush) (hsend : ∀ b, i ≠ .send b) (hsendTo : ∀ a b, i ≠ .sendTo a b) :
        fragCtr = s.fragCtr := by
      obtain hi | ⟨b, hi⟩ | ⟨a, b, hi⟩ := hi
      · exact absurd hi hflush
      · exact absurd hi (hsend b)
      · exact absurd hi (hsendTo a b)
    exact ⟨rfl, rfl, fun _ _ => rfl, fun _ _ _ => rfl, hsends, hctr, fun _ h => hob.resolve_right fun hi => h hi.1,
      fun _ _ => ⟨rfl, rfl, rfl, rfl⟩, fun _ _ _ => rfl, fun _ _ _ => rfl⟩
  | controlled r a pend needsReset env made code hpend =>
    exact ⟨rfl, rfl, fun _ _ => rfl, fun _ _ _ => rfl, fun _ _ _ => rfl, .inl rfl, fun _ _ => rfl,
      fun _ _ => ⟨rfl, rfl, rfl, rfl⟩, fun _ _ _ => rfl,
      fun _ _ h => hpend.resolve_right fun hr => h a (by rw [hr.1])⟩
  | received _ _ _ _ hi | receiveFailed _ _ _ hi =>
    have hreceives {q : Prop} (hrecv : i ≠ .recv) (hframe : i.sender? = none) : q :=
      (hi.elim hrecv fun h => h hframe).elim
    exact ⟨rfl, rfl, fun _ _ => rfl, fun _ _ _ => rfl, fun _ _ _ => rfl, .inl rfl, fun _ _ => rfl, hreceives,
      fun h1 h2 _ => hreceives h1 h2, fun h1 h2 _ => hreceives h1 h2⟩

/-- Settles O55: `Effect` answers once, adds calls and leaves the outside. -/
theorem oneResponsePerMessage : Obligations.OneResponsePerMessage := by
  intro s t message answers rest hhost h
  obtain ⟨i, heffect⟩ := effect_of_step hhost h
  obtain ⟨code, results, hresponses, halone⟩ := heffect.responses_eq
  obtain ⟨hcalls, hrest, hparams⟩ := heffect.outside
  exact ⟨⟨code.byte, results, hresponses, code.byte_toNat_le, fun hne => halone fun h => hne (by rw [h]; rfl)⟩, hcalls,
    hrest, hparams⟩

end Sys2Proof.Machine
end

section
/-! PROOFS of the invariants (O57 to O60): each part of `State.Inv` holds at reset, and no effect of an instruction breaks
it. The engine's part is looked at through `processFrag_cases`, the registry's through `applyPacket_spec`. -/
namespace Sys2Proof.Machine

/-! ### The registry (10_state R33) -/

theorem nodup_upsert {T : List Entry} (h : (validAddrs T).Nodup) (a : Addr) (ty : NodeType) :
    (validAddrs (upsert a ty T)).Nodup := by
  rcases validAddrs_upsert a ty T with heq | ⟨ha, hperm⟩
  · rwa [heq]
  · exact hperm.nodup_iff.2 (List.nodup_cons.2 ⟨ha, h⟩)

theorem nodup_pendInsert {T : List PendEntry} (h : (pendAddrs T).Nodup) (a : Addr) :
    (pendAddrs (pendInsert a T)).Nodup := by
  rcases pendAddrs_pendInsert a T with heq | ⟨ha, hperm⟩
  · rwa [heq]
  · exact hperm.nodup_iff.2 (List.nodup_cons.2 ⟨ha, h⟩)

theorem registryInv_applyPacket {s : State} (h : s.RegistryInv) (pkt : Packet) : (applyPacket s pkt).RegistryInv := by
  obtain ⟨hsub, hpub, hpend⟩ := h
  rw [applyPacket_spec]
  refine ⟨?_, ?_, ?_⟩ <;> dsimp only <;> split
  · exact hsub
  · exact nodup_upsert hsub _ _
  · exact hsub
  · exact hsub.sublist (validAddrs_removeEntry_sublist _ _)
  · exact hpub
  · exact hpub
  · exact nodup_upsert hpub _ _
  · exact hpub.sublist (validAddrs_removeEntry_sublist _ _)
  · exact hpend
  · exact hpend
  · exact hpend.sublist (pendAddrs_removePend_sublist _ _)
  · exact hpend

theorem registryInv_foldl_applyPacket {s : State} (h : s.RegistryInv) (l : List Packet) :
    (l.foldl applyPacket s).RegistryInv :=
  List.foldlRecOn l applyPacket h fun _ hu pkt _ => registryInv_applyPacket hu pkt

theorem Effect.registryInv {s t : State} {i : Instr} (heffect : Effect s i t) (h : s.RegistryInv) : t.RegistryInv := by
  cases heffect with
  | controlled r a pend _ _ _ _ hpend =>
    obtain ⟨hsub, hpub, hpend'⟩ := h
    obtain rfl | ⟨-, rfl⟩ := hpend
    · exact ⟨hsub, hpub, hpend'⟩
    · exact ⟨hsub, hpub, nodup_pendInsert hpend' a⟩
  | received _ _ s1 s2 _ _ h2 =>
    rw [h2]
    exact registryInv_foldl_applyPacket h s1.sl
  | _ => exact h

theorem registryInv_resetWith (p : Params) : (State.resetWith p).RegistryInv := by
  simp [State.RegistryInv, State.resetWith, validAddrs, pendAddrs, Entry.empty, PendEntry.empty]

/-! ### The reassembly store (10_state R29) -/

/-- A slot takes a group: every group is then one of those before or the new one. -/
theorem forall_valid_putGroup {q : Slot → Prop} {s : State} {j : Nat} {g : Slot}
    (h : ∀ x ∈ s.rs, x.valid = true → q x) (hg : q g) : ∀ x ∈ (putGroup j g s).rs, x.valid = true → q x := by
  intro x hx hvalid
  unfold putGroup at hx
  split at hx <;> rcases List.mem_or_eq_of_mem_set hx with hx | rfl
  · exact h x hx hvalid
  · cases hvalid
  · exact h x hx hvalid
  · exact hg

/-- A slot gives up its group: every group left was there before. -/
theorem forall_valid_release {q : Slot → Prop} {rs : List Slot} (h : ∀ x ∈ rs, x.valid = true → q x) (i : Nat) :
    ∀ x ∈ rs.modify i Slot.release, x.valid = true → q x := by
  intro x hx hvalid
  rw [List.modify_eq_set_getElem?] at hx
  cases hi : rs[i]? with
  | none =>
    rw [hi] at hx
    exact h x hx hvalid
  | some g =>
    rw [hi] at hx
    rcases List.mem_or_eq_of_mem_set hx with hx | rfl
    · exact h x hx hvalid
    · cases hvalid

/-- Eviction gives groups up: every group left was there before. -/
theorem forall_valid_evicted {q : Slot → Prop} {rs : List Slot} (h : ∀ x ∈ rs, x.valid = true → q x) (p : Params)
    (t : U32) : ∀ x ∈ evicted p t rs, x.valid = true → q x := by
  intro x hx hvalid
  obtain ⟨g, hg, rfl⟩ := List.mem_map.1 hx
  split at hvalid
  · cases hvalid
  · rw [if_neg ‹_›]
    exact h g hg hvalid

theorem validKeys_cons (g : Slot) (rs : List Slot) :
    validKeys (g :: rs) = if g.valid then g.key :: validKeys rs else validKeys rs := by
  cases hvalid : g.valid <;> simp [validKeys, hvalid]

theorem validKeys_evicted (p : Params) (t : U32) (rs : List Slot) :
    (validKeys (evicted p t rs)).Sublist (validKeys rs) := by
  induction rs with
  | nil => exact List.Sublist.refl _
  | cons g rs ih =>
    change (validKeys ((if _ then _ else g) :: evicted p t rs)).Sublist _
    rw [validKeys_cons, validKeys_cons]
    by_cases hstale : g.valid = true ∧ p.staleMs.toNat < (t - g.ts).toNat
    · rw [if_pos hstale, if_pos hstale.1, if_neg Bool.false_ne_true]
      exact ih.cons _
    · rw [if_neg hstale]
      split
      · exact ih.cons_cons _
      · exact ih

@[simp] theorem putGroup_params (j : Nat) (g : Slot) (s : State) : (putGroup j g s).params = s.params := by
  unfold putGroup
  split <;> rfl

@[simp] theorem putGroup_rs_length (j : Nat) (g : Slot) (s : State) : (putGroup j g s).rs.length = s.rs.length := by
  unfold putGroup
  split <;> exact List.length_set

theorem nodup_putGroup {s : State} {j : Nat} {g : Slot} (h : (validKeys s.rs).Nodup)
    (hset : (validKeys (s.rs.set j g)).Nodup) : (validKeys (putGroup j g s).rs).Nodup := by
  unfold putGroup
  split
  · exact h.sublist (validKeys_set_invalid s.rs j g.release rfl)
  · exact hset

theorem storeInv_putGroup {s : State} (h : s.StoreInv) {j : Nat} {g : Slot} (hg : g.Inv s.params)
    (hset : (validKeys (s.rs.set j g)).Nodup) : (putGroup j g s).StoreInv := by
  rw [State.StoreInv, putGroup_params]
  exact ⟨nodup_putGroup h.1 hset, forall_valid_putGroup h.2 hg⟩

theorem storeInv_processFrag {s : State} (hmax : 1 ≤ s.params.groupMax) (h : s.StoreInv) {m : Member}
    (href : m.hdr.fragRef ≠ 0) (t : U32) : (processFrag m t s).StoreInv := by
  obtain ⟨hnodup, hslots⟩ := h
  rcases processFrag_cases hmax m t with heq | ⟨rs, j, hrs, hfree, heq⟩ | ⟨j, g, hj, hvalid, hkey, hroom, heq⟩ <;>
    rw [heq]
  · exact ⟨hnodup, hslots⟩
  · obtain ⟨hnodup', hslots', hnone⟩ : (validKeys rs).Nodup ∧ (∀ x ∈ rs, x.valid = true → x.Inv s.params) ∧
        findGroup rs m.hdr.fragRef = none := by
      obtain ⟨rfl, hnone⟩ | ⟨i, hfind, rfl⟩ := hrs
      · exact ⟨hnodup, hslots, hnone⟩
      · exact ⟨hnodup.sublist (validKeys_release s.rs i), forall_valid_release hslots i, findGroup_release hnodup hfind⟩
    obtain ⟨g, hj, hinvalid⟩ := getElem?_of_freeSlot hfree
    refine storeInv_putGroup (s := { s with rs := rs }) ⟨hnodup', hslots'⟩ ⟨href, le_rfl, hmax, by simp⟩ ?_
    rw [(validKeys_insert rs j g _ hj hinvalid rfl).nodup_iff]
    exact List.nodup_cons.2 ⟨(findGroup_none rs _).1 hnone, hnodup'⟩
  · obtain ⟨hne, hpos, hle, hmembers⟩ := hslots g (List.mem_of_getElem? hj) hvalid
    refine storeInv_putGroup ⟨hnodup, hslots⟩ ⟨hne, ?_, ?_, fun x hx => ?_⟩ ?_
    · simp
    · simp only [List.length_append, List.length_singleton]
      omega
    · rcases List.mem_append.1 hx with hx | hx
      · exact hmembers x hx
      · rw [List.mem_singleton.1 hx, hkey]
    · exact (validKeys_set_same s.rs j g { g with ts := t, members := g.members ++ [m] } hj rfl rfl).symm ▸ hnodup

theorem storeInv_routeFrame {s : State} (hmax : 1 ≤ s.params.groupMax) (h : s.StoreInv) (m : Member) (t : U32) :
    (routeFrame t m s).StoreInv := by
  unfold routeFrame
  split
  · exact h
  · exact storeInv_processFrag hmax h ‹_› t

@[simp] theorem routeFrame_params (t : U32) (m : Member) (s : State) : (routeFrame t m s).params = s.params := by
  rw [routeFrame_eq]

theorem storeInv_drain {s : State} (hmax : 1 ≤ s.params.groupMax) (h : s.StoreInv) (ms : List Member) (t : U32) :
    (ms.foldl (fun u m => routeFrame t m u) s).StoreInv := by
  induction ms generalizing s with
  | nil => exact h
  | cons m ms ih => exact ih (by rwa [routeFrame_params]) (storeInv_routeFrame hmax h m t)

theorem Effect.storeInv {s t : State} {i : Instr} (heffect : Effect s i t) (hmax : 1 ≤ s.params.groupMax)
    (h : s.StoreInv) : t.StoreInv := by
  have hdrained {s1 : State} {ms : List Member}
      (h1 : s1 = ms.foldl (fun u m => routeFrame s.env.now m u) { s with sl := [] }) :
      (validKeys s1.rs).Nodup ∧ ∀ g ∈ s1.rs, g.valid = true → g.Inv s.params := by
    have hdrain := storeInv_drain (s := { s with sl := [] }) hmax h ms s.env.now
    rw [← h1, State.StoreInv] at hdrain
    rwa [h1, foldl_routeFrame_eq, ← h1] at hdrain
  cases heffect with
  | received _ _ s1 _ _ h1 =>
    obtain ⟨hnodup, hslots⟩ := hdrained h1
    exact ⟨hnodup.sublist (validKeys_evicted ..), forall_valid_evicted hslots _ _⟩
  | receiveFailed _ _ s1 _ h1 =>
    obtain ⟨hnodup, hslots⟩ := hdrained h1
    exact ⟨hnodup, hslots⟩
  | _ => exact h

theorem storeInv_resetWith (p : Params) : (State.resetWith p).StoreInv := by
  simp [State.StoreInv, State.resetWith, validKeys, Slot.empty]

/-! ### The sizes of the arrays (10_state R28, R30 to R32) -/

theorem processFrag_rs_length {s : State} (hmax : 1 ≤ s.params.groupMax) (m : Member) (t : U32) :
    (processFrag m t s).rs.length = s.rs.length := by
  rcases processFrag_cases hmax m t with heq | ⟨rs, j, hrs, -, heq⟩ | ⟨j, g, -, -, -, -, heq⟩ <;> rw [heq]
  · obtain ⟨rfl, -⟩ | ⟨i, -, rfl⟩ := hrs
    · exact putGroup_rs_length ..
    · exact (putGroup_rs_length ..).trans (List.length_modify ..)
  · exact putGroup_rs_length ..

theorem drain_rs_length {s : State} (hmax : 1 ≤ s.params.groupMax) (ms : List Member) (t : U32) :
    (ms.foldl (fun u m => routeFrame t m u) s).rs.length = s.rs.length := by
  induction ms generalizing s with
  | nil => rfl
  | cons m ms ih =>
    rw [List.foldl_cons, ih (by rwa [routeFrame_params]), routeFrame]
    split
    · rfl
    · exact processFrag_rs_length hmax m t

theorem layoutInv_applyPacket {s : State} (h : s.LayoutInv) (pkt : Packet) : (applyPacket s pkt).LayoutInv := by
  obtain ⟨hlegal, hrs, hsub, hpub, hpend⟩ := h
  rw [applyPacket_spec]
  refine ⟨hlegal, hrs, ?_, ?_, ?_⟩ <;> dsimp only <;> split <;>
    simp only [upsert_length, removeEntry_length, removePend_length, hsub, hpub, hpend]

@[simp] theorem foldl_applyPacket_params (l : List Packet) (s : State) : (l.foldl applyPacket s).params = s.params := by
  rw [foldl_applyPacket_eq]

theorem Effect.layoutInv {s t : State} {i : Instr} (heffect : Effect s i t) (h : s.LayoutInv) : t.LayoutInv := by
  obtain ⟨hlegal, hrs, hsub, hpub, hpend⟩ := id h
  obtain ⟨-, -, -, -, -, -, hmax, -⟩ := id hlegal
  cases heffect with
  | controlled r a pend _ _ _ _ hpend' =>
    obtain rfl | ⟨-, rfl⟩ := hpend'
    · exact ⟨hlegal, hrs, hsub, hpub, hpend⟩
    · exact ⟨hlegal, hrs, hsub, hpub, (pendInsert_length ..).trans hpend⟩
  | received _ _ s1 s2 _ h1 h2 =>
    have happlied : s2.LayoutInv := by
      rw [h2]
      exact List.foldlRecOn s1.sl applyPacket h fun _ hu pkt _ => layoutInv_applyPacket hu pkt
    have hparams : s2.params = s.params := by rw [h2, foldl_applyPacket_params]
    rw [State.LayoutInv, hparams] at happlied
    obtain ⟨-, -, hsub', hpub', hpend'⟩ := happlied
    refine ⟨hlegal, ?_, hsub', hpub', hpend'⟩
    rw [h1]
    exact (List.length_map _).trans ((drain_rs_length (s := { s with sl := [] }) hmax ..).trans hrs)
  | receiveFailed _ _ s1 _ h1 =>
    refine ⟨hlegal, ?_, hsub, hpub, hpend⟩
    rw [h1]
    exact (drain_rs_length (s := { s with sl := [] }) hmax ..).trans hrs
  | _ => exact h

/-! ### The headers of groups, staged packets and queued packets (30_encoding R97) -/

/-- Every member of a group and every staged packet has a valid header. -/
def State.HeadersValid (s : State) : Prop :=
  (∀ g ∈ s.rs, g.valid = true → ∀ m ∈ g.members, validity m.hdr = true) ∧ ∀ p ∈ s.sl, validity p.hdr = true

/-- The packet of a group has the header of one of its members (41_fragmentation R148). -/
theorem hdr_of_mem_reassembled {ms : List Member} {p : Packet} (hp : p ∈ (reassembled ms).toList) :
    ∃ m ∈ ms, p.hdr = m.hdr := by
  rw [Option.mem_toList, reassembled] at hp
  split at hp
  next => cases hp
  next last hlast =>
    cases hp
    exact ⟨last, (sortByIndex_perm ms).mem_iff.1 (List.mem_of_getLast? hlast), rfl⟩

theorem headersValid_putGroup {s : State} (h : s.HeadersValid) {j : Nat} {g : Slot}
    (hg : ∀ m ∈ g.members, validity m.hdr = true) : (putGroup j g s).HeadersValid := by
  refine ⟨forall_valid_putGroup h.1 hg, fun p hp => ?_⟩
  unfold putGroup at hp
  split at hp
  · rcases List.mem_append.1 hp with hp | hp
    · exact h.2 p hp
    · obtain ⟨m, hm, heq⟩ := hdr_of_mem_reassembled hp
      rw [heq]
      exact hg m hm
  · exact h.2 p hp

theorem headersValid_routeFrame {s : State} (hmax : 1 ≤ s.params.groupMax) (h : s.HeadersValid) {m : Member}
    (hm : validity m.hdr = true) (t : U32) : (routeFrame t m s).HeadersValid := by
  obtain ⟨hgroups, hstaged⟩ := id h
  unfold routeFrame
  split
  · refine ⟨hgroups, fun p hp => ?_⟩
    rcases List.mem_append.1 hp with hp | hp
    · exact hstaged p hp
    · rwa [List.mem_singleton.1 hp]
  · rcases processFrag_cases hmax m t with heq | ⟨rs, j, hrs, -, heq⟩ | ⟨j, g, hj, hvalid, -, -, heq⟩ <;> rw [heq]
    · exact h
    · refine headersValid_putGroup (s := { s with rs := rs }) ⟨?_, hstaged⟩ (by simpa using hm)
      obtain ⟨rfl, -⟩ | ⟨i, -, rfl⟩ := hrs
      · exact hgroups
      · exact forall_valid_release hgroups i
    · refine headersValid_putGroup h fun x hx => ?_
      rcases List.mem_append.1 hx with hx | hx
      · exact hgroups g (List.mem_of_getElem? hj) hvalid x hx
      · rwa [List.mem_singleton.1 hx]

theorem headersValid_drain {s : State} (hmax : 1 ≤ s.params.groupMax) (h : s.HeadersValid) {ms : List Member}
    (hms : ∀ m ∈ ms, validity m.hdr = true) (t : U32) : (ms.foldl (fun u m => routeFrame t m u) s).HeadersValid := by
  induction ms generalizing s with
  | nil => exact h
  | cons m ms ih =>
    obtain ⟨hm, hms⟩ := List.forall_mem_cons.1 hms
    exact ih (by rwa [routeFrame_params]) (headersValid_routeFrame hmax h hm t) hms

/-- Every queued packet is a PUSH with a valid header, and the queue is not over its capacity. -/
def State.QueueOk (s : State) : Prop :=
  (∀ p ∈ s.iq, validity p.hdr = true ∧ p.hdr.req = .push) ∧ s.iq.length ≤ s.params.iqCap

theorem queueOk_applyPacket {s : State} (h : s.QueueOk) {pkt : Packet} (hpkt : validity pkt.hdr = true) :
    (applyPacket s pkt).QueueOk := by
  obtain ⟨hqueued, hcap⟩ := id h
  rw [State.QueueOk, applyPacket_params, applyPacket_spec]
  dsimp only
  split_ifs with hdeliver
  · obtain ⟨hreq, -, hroom⟩ := hdeliver
    refine ⟨fun p hp => ?_, ?_⟩
    · rcases List.mem_append.1 hp with hp | hp
      · exact hqueued p hp
      · rw [List.mem_singleton.1 hp]
        exact ⟨hpkt, hreq⟩
    · rw [List.length_append, List.length_singleton]
      omega
  · exact h

theorem Effect.headersAndQueue {s t : State} {i : Instr} (heffect : Effect s i t) (hmax : 1 ≤ s.params.groupMax)
    (hqueue : s.QueueInv) (hheaders : s.HeaderInv) : t.QueueInv ∧ t.HeaderInv := by
  obtain ⟨hob, hiq, hsl⟩ := id hqueue
  obtain ⟨hqueued, hgroups⟩ := id hheaders
  have hdrained {s1 : State} {arrivals : List (Addr × Bytes)}
      (h1 : s1 = (acceptedMembers arrivals).foldl (fun u m => routeFrame s.env.now m u) { s with sl := [] }) :
      s1.HeadersValid := by
    rw [h1]
    exact headersValid_drain (s := { s with sl := [] }) hmax ⟨hgroups, nofun⟩
      (fun m => validity_of_mem_acceptedMembers) s.env.now
  cases heffect with
  | drained => exact ⟨⟨hob, Nat.zero_le _, hsl⟩, nofun, hgroups⟩
  | appended data hroom => exact ⟨⟨List.length_append.trans_le hroom, hiq, hsl⟩, hheaders⟩
  | sent _ ob _ _ _ _ _ _ hob' =>
    obtain rfl | ⟨-, rfl⟩ := hob'
    · exact ⟨⟨hob, hiq, hsl⟩, hheaders⟩
    · exact ⟨⟨Nat.zero_le _, hiq, hsl⟩, hheaders⟩
  | received _ _ s1 s2 _ h1 h2 =>
    obtain ⟨hgroups', hstaged⟩ := hdrained h1
    have happlied : s2.QueueOk := by
      rw [h2]
      exact List.foldlRecOn s1.sl applyPacket ⟨hqueued, hiq⟩ fun _ hu pkt hpkt =>
        queueOk_applyPacket hu (hstaged pkt hpkt)
    have hparams : s2.params = s.params := by rw [h2, foldl_applyPacket_params]
    rw [State.QueueOk, hparams] at happlied
    exact ⟨⟨hob, happlied.2, rfl⟩, happlied.1, forall_valid_evicted hgroups' _ _⟩
  | receiveFailed _ _ s1 _ h1 => exact ⟨⟨hob, hiq, rfl⟩, hqueued, (hdrained h1).1⟩
  | _ => exact ⟨hqueue, hheaders⟩

/-! ### Reset (10_state R37) -/

theorem inv_resetWith {p : Params} (hp : p.Legal) : (State.resetWith p).Inv := by
  refine ⟨⟨hp, List.length_replicate, List.length_replicate, List.length_replicate, List.length_replicate⟩,
    registryInv_resetWith p, storeInv_resetWith p, ⟨Nat.zero_le _, Nat.zero_le _, rfl⟩, nofun, fun g hg hvalid => ?_⟩
  rw [List.eq_of_mem_replicate hg] at hvalid
  cases hvalid

/-! ### The obligations -/

/-- Settles O57: a step idles, resets, or has an effect, and each keeps the registry's invariant. -/
theorem stepKeepsRegistryUnique : Obligations.StepKeepsRegistryUnique := by
  intro s t h hstep
  obtain rfl | ⟨rest, rfl⟩ | ⟨answers, rest, i, heffect⟩ := step_cases hstep
  · exact h
  · exact registryInv_resetWith s.params
  · exact heffect.registryInv h

/-- Settles O58: as O57, for the store; a legal GROUP_MAX lets a new group hold its first member. -/
theorem stepKeepsStoreInvariants : Obligations.StepKeepsStoreInvariants := by
  intro s t hlegal h hstep
  obtain ⟨-, -, -, -, -, -, hmax, -⟩ := hlegal
  obtain rfl | ⟨rest, rfl⟩ | ⟨answers, rest, i, heffect⟩ := step_cases hstep
  · exact h
  · exact storeInv_resetWith s.params
  · exact heffect.storeInv hmax h

/-- Settles O59: each part of the invariant is kept by every effect. -/
theorem stepKeepsInvariant : Obligations.StepKeepsInvariant := by
  intro s t h hstep
  obtain ⟨hlayout, hregistry, hstore, hqueue, hheaders⟩ := id h
  obtain ⟨hlegal, -⟩ := id hlayout
  obtain ⟨-, -, -, -, -, -, hmax, -⟩ := id hlegal
  obtain rfl | ⟨rest, rfl⟩ | ⟨answers, rest, i, heffect⟩ := step_cases hstep
  · exact h
  · exact inv_resetWith hlegal
  · exact ⟨heffect.layoutInv hlayout, heffect.registryInv hregistry, heffect.storeInv hmax hstore,
      heffect.headersAndQueue hmax hqueue hheaders⟩

/-- Settles O60: at reset every array is a row of invalid cells and every list is empty. -/
theorem resetMeetsInvariant : Obligations.ResetMeetsInvariant :=
  ⟨fun _ => inv_resetWith, inv_resetWith (by decide)⟩

end Sys2Proof.Machine
end

section
/-! PROOFS of non-interference (O56): what an invalid slot or entry holds is never read. Most operations do not look at
the arrays at all (`IgnoresTables`); those that do look at valid cells only, and what they write respects `Same`. -/
namespace Sys2Proof.Machine

/-! ### Lists that agree place by place -/

section Forall2
variable {α : Type} {r : α → α → Prop} {l l' : List α}

theorem findIdx?_congr_forall₂ {q : α → Bool} (h : List.Forall₂ r l l') (hq : ∀ x y, r x y → q x = q y) :
    l.findIdx? q = l'.findIdx? q := by
  induction h with
  | nil => rfl
  | cons hxy _ ih => rw [List.findIdx?_cons, List.findIdx?_cons, hq _ _ hxy, ih]

theorem forall₂_set {x y : α} (h : List.Forall₂ r l l') (hxy : r x y) (i : Nat) :
    List.Forall₂ r (l.set i x) (l'.set i y) := by
  induction h generalizing i with
  | nil => exact .nil
  | cons hab htail ih =>
    cases i with
    | zero => exact .cons hxy htail
    | succ i => exact .cons hab (ih i)

theorem forall₂_modify {f : α → α} (h : List.Forall₂ r l l') (hf : ∀ x y, r x y → r (f x) (f y)) (i : Nat) :
    List.Forall₂ r (l.modify i f) (l'.modify i f) := by
  induction h generalizing i with
  | nil => cases i <;> exact .nil
  | cons hab htail ih =>
    cases i with
    | zero => exact .cons (hf _ _ hab) htail
    | succ i => exact .cons hab (ih i)

theorem forall₂_getElem? {x : α} {i : Nat} (h : List.Forall₂ r l l') (hi : l[i]? = some x) :
    ∃ y, l'[i]? = some y ∧ r x y := by
  induction h generalizing i with
  | nil => cases hi
  | cons hab htail ih =>
    cases i with
    | zero => cases hi; exact ⟨_, rfl, hab⟩
    | succ i => exact ih hi

end Forall2

/-! ### Cells that agree where they are valid -/

/-- What `Entry.Same`, `PendEntry.Same` and `Slot.Same` say, for any kind of cell. -/
def SameCell {α : Type} (valid : α → Bool) (a b : α) : Prop := valid a = valid b ∧ (valid a = true → a = b)

theorem sameCell_refl {α : Type} (valid : α → Bool) (a : α) : SameCell valid a a := ⟨rfl, fun _ => rfl⟩

/-- A test that only valid cells pass does not tell cells that agree apart. -/
theorem SameCell.test_eq {α : Type} {valid q : α → Bool} {a b : α} (h : SameCell valid a b)
    (hq : ∀ x, q x = true → valid x = true) : q a = q b := by
  obtain ⟨hvalid, heq⟩ := h
  cases ha : valid a with
  | true => rw [heq ha]
  | false =>
    rw [Bool.eq_false_iff.2 fun h => Bool.false_ne_true (ha.symm.trans (hq a h)),
      Bool.eq_false_iff.2 fun h => Bool.false_ne_true ((ha.symm.trans hvalid).trans (hq b h))]

/-- A write that keeps cells that agree alike. -/
theorem SameCell.map {α : Type} {valid : α → Bool} {a b : α} (h : SameCell valid a b) {f : α → α}
    (hf : valid (f a) = valid (f b)) (hvalid : valid (f a) = true → valid a = true) : SameCell valid (f a) (f b) :=
  ⟨hf, fun hfa => by rw [h.2 (hvalid hfa)]⟩

/-- Cells that are cleared agree, whatever they were. -/
theorem sameCell_of_invalid {α : Type} {valid : α → Bool} {a b : α} (ha : valid a = false) (hb : valid b = false) :
    SameCell valid a b := ⟨ha.trans hb.symm, fun h => absurd (ha.symm.trans h) Bool.false_ne_true⟩

theorem filter_valid_eq {α : Type} {valid : α → Bool} {l l' : List α} (h : List.Forall₂ (SameCell valid) l l') :
    l.filter valid = l'.filter valid := by
  induction h with
  | nil => rfl
  | @cons a b _ _ hab _ ih =>
    obtain ⟨hvalid, heq⟩ := hab
    rw [List.filter_cons, List.filter_cons, ← hvalid, ih]
    split
    · rw [heq ‹_›]
    · rfl

/-! ### The registry (42_registry R181 to R192) -/

variable {T T' : List Entry} {P P' : List PendEntry}

theorem validAddrs_same (h : List.Forall₂ Entry.Same T T') : validAddrs T = validAddrs T' :=
  congrArg (List.map Entry.addr) (filter_valid_eq h)

theorem any_valid_same (h : List.Forall₂ Entry.Same T T') : T.any (·.valid) = T'.any (·.valid) := by
  induction h with
  | nil => rfl
  | cons hab _ ih => rw [List.any_cons, List.any_cons, hab.1, ih]

theorem findEntry_same (h : List.Forall₂ Entry.Same T T') (a : Addr) : findEntry T a = findEntry T' a :=
  findIdx?_congr_forall₂ h fun x y (hxy : SameCell Entry.valid x y) =>
    hxy.test_eq fun _ hx => (Bool.and_eq_true_iff.1 hx).1

theorem findPend_same (h : List.Forall₂ PendEntry.Same P P') (a : Addr) : findPend P a = findPend P' a :=
  findIdx?_congr_forall₂ h fun x y (hxy : SameCell PendEntry.valid x y) =>
    hxy.test_eq fun _ hx => (Bool.and_eq_true_iff.1 hx).1

theorem lookupType_same (h : List.Forall₂ Entry.Same T T') (a : Addr) : lookupType T a = lookupType T' a := by
  unfold lookupType
  rw [← findEntry_same h]
  split
  next => rfl
  next i hfind =>
    obtain ⟨hlen, hholds, -⟩ := List.findIdx?_eq_some_iff_getElem.1 hfind
    obtain ⟨y, hy, -, heq⟩ := forall₂_getElem? h (List.getElem?_eq_getElem hlen)
    rw [List.getElem?_eq_getElem hlen, hy, heq (Bool.and_eq_true_iff.1 hholds).1]

theorem upsert_same (h : List.Forall₂ Entry.Same T T') (a : Addr) (ty : NodeType) :
    List.Forall₂ Entry.Same (upsert a ty T) (upsert a ty T') := by
  unfold upsert
  rw [← findEntry_same h, ← findIdx?_congr_forall₂ h fun x y hxy => congrArg not hxy.1]
  split
  · exact forall₂_modify h (fun x y (hxy : SameCell Entry.valid x y) => hxy.map hxy.1 id) _
  · split
    · exact h
    · exact forall₂_set h (sameCell_refl Entry.valid _) _

theorem removeEntry_same (h : List.Forall₂ Entry.Same T T') (a : Addr) :
    List.Forall₂ Entry.Same (removeEntry a T) (removeEntry a T') := by
  unfold removeEntry
  rw [← findEntry_same h]
  split
  · exact forall₂_modify h (fun _ _ _ => sameCell_of_invalid (valid := Entry.valid) rfl rfl) _
  · exact h

theorem pendInsert_same (h : List.Forall₂ PendEntry.Same P P') (a : Addr) :
    List.Forall₂ PendEntry.Same (pendInsert a P) (pendInsert a P') := by
  unfold pendInsert
  rw [← findPend_same h, ← findIdx?_congr_forall₂ h fun x y hxy => congrArg not hxy.1]
  split
  · exact h
  · split
    · exact h
    · exact forall₂_set h (sameCell_refl PendEntry.valid _) _

theorem removePend_same (h : List.Forall₂ PendEntry.Same P P') (a : Addr) :
    List.Forall₂ PendEntry.Same (removePend a P) (removePend a P') := by
  unfold removePend
  rw [← findPend_same h]
  split
  · exact forall₂_modify h (fun _ _ _ => sameCell_of_invalid (valid := PendEntry.valid) rfl rfl) _
  · exact h

/-! ### Operations that do not look at the arrays -/

/-- The state with other arrays. -/
def State.withTables (s : State) (rs : List Slot) (sub pub : List Entry) (pend : List PendEntry) : State :=
  { s with rs := rs, sub := sub, pub := pub, pend := pend }

theorem same_iff {s t : State} :
    s.Same t ↔ ∃ rs sub pub pend, List.Forall₂ Slot.Same s.rs rs ∧ List.Forall₂ Entry.Same s.sub sub ∧
      List.Forall₂ Entry.Same s.pub pub ∧ List.Forall₂ PendEntry.Same s.pend pend ∧
      t = s.withTables rs sub pub pend := by
  constructor
  · rintro ⟨hrs, hsub, hpub, hpend, heq⟩
    exact ⟨_, _, _, _, hrs, hsub, hpub, hpend, heq⟩
  · rintro ⟨rs, sub, pub, pend, hrs, hsub, hpub, hpend, rfl⟩
    exact ⟨hrs, hsub, hpub, hpend, rfl⟩

/-- The operation neither reads nor writes the arrays. -/
def IgnoresTables (f : State → State) : Prop :=
  ∀ s rs sub pub pend, f (s.withTables rs sub pub pend) = (f s).withTables rs sub pub pend

theorem IgnoresTables.same {f : State → State} (hf : IgnoresTables f) {s t : State} (h : s.Same t) :
    (f s).Same (f t) := by
  obtain ⟨rs, sub, pub, pend, hrs, hsub, hpub, hpend, rfl⟩ := same_iff.1 h
  have hkeeps : f s = (f s).withTables s.rs s.sub s.pub s.pend := hf s s.rs s.sub s.pub s.pend
  refine same_iff.2 ⟨rs, sub, pub, pend, ?_, ?_, ?_, ?_, hf s rs sub pub pend⟩ <;> rw [hkeeps] <;> assumption

theorem ignoresTables_reply (code : ResultCode) : IgnoresTables (State.reply · code) := fun _ _ _ _ _ => rfl

theorem ignoresTables_replyWith (results : Bytes) : IgnoresTables (State.replyWith · results) := fun _ _ _ _ _ => rfl

theorem ignoresTables_openAndConfigure (v p : U16) (T : NodeType) : IgnoresTables (openAndConfigure v p T) := by
  intro s rs sub pub pend
  rw [openAndConfigure_eq, openAndConfigure_eq]
  rfl

theorem sendUntilFailure_cons (a : Addr) (f : Bytes) (l : List (Addr × Bytes)) (s : State) :
    sendUntilFailure ((a, f) :: l) s =
      if txCode f.length (txSend a f s).1 = .success then sendUntilFailure l (txSend a f s).2
      else (txCode f.length (txSend a f s).1, (txSend a f s).2.noteTx (txSend a f s).1) := by
  rw [sendUntilFailure]
  split
  next h => rw [if_pos h]
  next h => rw [if_neg h]

theorem noteTx_withTables (answer : TxAnswer) : IgnoresTables (State.noteTx · answer) := by
  cases answer <;> exact fun _ _ _ _ _ => rfl

theorem sendUntilFailure_withTables (l : List (Addr × Bytes)) (s : State) (rs : List Slot) (sub pub : List Entry)
    (pend : List PendEntry) :
    sendUntilFailure l (s.withTables rs sub pub pend) =
      ((sendUntilFailure l s).1, (sendUntilFailure l s).2.withTables rs sub pub pend) := by
  induction l generalizing s with
  | nil => rfl
  | cons af l ih =>
    obtain ⟨a, f⟩ := af
    have hsend : txSend a f (s.withTables rs sub pub pend) =
      ((txSend a f s).1, (txSend a f s).2.withTables rs sub pub pend) := rfl
    rw [sendUntilFailure_cons, sendUntilFailure_cons, hsend]
    split
    · exact ih _
    · exact congrArg _ (noteTx_withTables _ _ rs sub pub pend)

theorem prepareFrag_withTables (b : Bytes) (s : State) (rs : List Slot) (sub pub : List Entry) (pend : List PendEntry) :
    prepareFrag b (s.withTables rs sub pub pend) =
      ((prepareFrag b s).1, (prepareFrag b s).2.withTables rs sub pub pend) := by
  unfold prepareFrag
  change (if fragCount s.params b.length = 0 then _ else _) = _
  split_ifs <;> rfl

theorem ignoresTables_fragmentAndSend (b : Bytes) (dests : List Addr) : IgnoresTables (fragmentAndSend b dests) := by
  intro s rs sub pub pend
  unfold fragmentAndSend txBatch
  rw [prepareFrag_withTables, sendUntilFailure_withTables]
  rfl

theorem ignoresTables_sendData (b : Bytes) (dests : List Addr) : IgnoresTables (sendData b dests) := by
  intro s rs sub pub pend
  unfold sendData
  rw [ignoresTables_fragmentAndSend]
  change (if !s.status.init then _ else if tooLong s.params b.length then _ else _) = _
  split_ifs <;> rfl

theorem ignoresTables_sendToAll (frame : Bytes) (dests : List Addr) :
    IgnoresTables fun s => closeAndReport (sendToAll frame dests .success s) := by
  intro s rs sub pub pend
  simp only [sendToAll_spec]
  rfl

/-! ### The registry pass and the engine -/

theorem applyPacket_same {s t : State} (h : s.Same t) (pkt : Packet) :
    (applyPacket s pkt).Same (applyPacket t pkt) := by
  obtain ⟨rs, sub, pub, pend, hrs, hsub, hpub, hpend, rfl⟩ := same_iff.1 h
  rw [applyPacket_spec, applyPacket_spec]
  refine ⟨hrs, ?_, ?_, ?_, rfl⟩ <;> dsimp only [State.withTables] <;> split
  · exact hsub
  · exact upsert_same hsub _ _
  · exact hsub
  · exact removeEntry_same hsub _
  · exact hpub
  · exact hpub
  · exact upsert_same hpub _ _
  · exact removeEntry_same hpub _
  · exact hpend
  · exact hpend
  · exact removePend_same hpend _
  · exact hpend

theorem foldl_applyPacket_same (l : List Packet) {s t : State} (h : s.Same t) :
    (l.foldl applyPacket s).Same (l.foldl applyPacket t) := by
  induction l generalizing s t with
  | nil => exact h
  | cons pkt l ih => exact ih (applyPacket_same h pkt)

theorem State.Same.withSlots {s t : State} (h : s.Same t) {rs rs' : List Slot} (hrs : List.Forall₂ Slot.Same rs rs') :
    { s with rs := rs }.Same { t with rs := rs' } := by
  obtain ⟨_, sub, pub, pend, -, hsub, hpub, hpend, rfl⟩ := same_iff.1 h
  exact ⟨hrs, hsub, hpub, hpend, rfl⟩

theorem State.Same.rs {s t : State} (h : s.Same t) : List.Forall₂ Slot.Same s.rs t.rs := h.1

theorem State.Same.params_eq {s t : State} (h : s.Same t) : s.params = t.params := by
  obtain ⟨-, -, -, -, heq⟩ := h
  rw [heq]

theorem State.Same.sl_eq {s t : State} (h : s.Same t) : s.sl = t.sl := by
  obtain ⟨-, -, -, -, heq⟩ := h
  rw [heq]

theorem putGroup_same {s t : State} (h : s.Same t) (j : Nat) (g : Slot) : (putGroup j g s).Same (putGroup j g t) := by
  obtain ⟨rs, sub, pub, pend, hrs, hsub, hpub, hpend, rfl⟩ := same_iff.1 h
  unfold putGroup
  split
  · exact ⟨forall₂_set hrs (sameCell_refl Slot.valid _) j, hsub, hpub, hpend, rfl⟩
  · exact ⟨forall₂_set hrs (sameCell_refl Slot.valid _) j, hsub, hpub, hpend, rfl⟩

theorem startGroup_same {s t : State} (hmax : 1 ≤ s.params.groupMax) (h : s.Same t) (m : Member) (now : U32) :
    (startGroup m now s).Same (startGroup m now t) := by
  have hfree : freeSlot s.rs = freeSlot t.rs := findIdx?_congr_forall₂ h.rs fun x y hxy => congrArg not hxy.1
  cases hj : freeSlot s.rs with
  | none =>
    rw [startGroup_of_full hj, startGroup_of_full (hfree ▸ hj)]
    exact h
  | some j =>
    rw [startGroup_of_free hmax hj, startGroup_of_free (h.params_eq ▸ hmax) (hfree ▸ hj)]
    exact putGroup_same h j _

theorem processFrag_same {s t : State} (hmax : 1 ≤ s.params.groupMax) (h : s.Same t) (m : Member) (now : U32) :
    (processFrag m now s).Same (processFrag m now t) := by
  have hgroup : findGroup s.rs m.hdr.fragRef = findGroup t.rs m.hdr.fragRef :=
    findIdx?_congr_forall₂ h.rs fun x y (hxy : SameCell Slot.valid x y) =>
      hxy.test_eq (q := fun g => g.valid && g.key == m.hdr.fragRef) fun _ hx => (Bool.and_eq_true_iff.1 hx).1
  cases hfind : findGroup s.rs m.hdr.fragRef with
  | none =>
    rw [processFrag_of_none hfind, processFrag_of_none (hgroup ▸ hfind)]
    exact startGroup_same hmax h m now
  | some j =>
    obtain ⟨g, hj, hvalid, -⟩ := getElem?_of_findGroup hfind
    obtain ⟨g', hj', -, heq⟩ := forall₂_getElem? h.rs hj
    obtain rfl := heq hvalid
    have hstale : staleAt s now j = staleAt t now j := by rw [staleAt_eq hj, staleAt_eq hj', h.params_eq]
    cases hat : staleAt s now j with
    | true =>
      rw [processFrag_of_stale hfind hat, processFrag_of_stale (hgroup ▸ hfind) (hstale ▸ hat)]
      refine startGroup_same (s := { s with rs := s.rs.modify j Slot.release }) hmax (h.withSlots ?_) m now
      exact forall₂_modify h.rs (fun _ _ _ => sameCell_of_invalid (valid := Slot.valid) rfl rfl) j
    | false =>
      rw [processFrag_of_fresh hfind hat, processFrag_of_fresh (hgroup ▸ hfind) (hstale ▸ hat)]
      by_cases hfull : g.members.length = s.params.groupMax
      · rw [addToGroup_of_full hj hfull, addToGroup_of_full hj' (h.params_eq ▸ hfull)]
        exact h
      · rw [addToGroup_of_room hj hfull, addToGroup_of_room hj' (h.params_eq ▸ hfull)]
        exact putGroup_same h j _

theorem evictStale_same {s t : State} (h : s.Same t) (now : U32) : (evictStale now s).Same (evictStale now t) := by
  have hslots : List.Forall₂ Slot.Same (evicted s.params now s.rs) (evicted t.params now t.rs) := by
    rw [← h.params_eq]
    refine List.forall₂_map_left_iff.2 (List.forall₂_map_right_iff.2 (h.rs.imp fun x y hxy => ?_))
    by_cases hvalid : x.valid = true
    · obtain rfl := hxy.2 hvalid
      exact sameCell_refl Slot.valid _
    · rw [if_neg fun h => hvalid h.1, if_neg fun h => hvalid (hxy.1.trans h.1)]
      exact hxy
  rw [evictStale_eq, evictStale_eq now t]
  exact h.withSlots hslots

/-! ### The cycle (43_host_commands R205, R206) -/

theorem ignoresTables_logCall (c : DriverCall) : IgnoresTables (State.logCall · c) := fun _ _ _ _ _ => rfl

theorem ignoresTables_clearStaged : IgnoresTables fun s => { s with sl := [] } := fun _ _ _ _ _ => rfl

theorem routeFrame_same {s t : State} (hmax : 1 ≤ s.params.groupMax) (h : s.Same t) (m : Member) (now : U32) :
    (routeFrame now m s).Same (routeFrame now m t) := by
  unfold routeFrame
  split
  · exact IgnoresTables.same (f := fun s => { s with sl := s.sl ++ [m] }) (fun _ _ _ _ _ => rfl) h
  · exact processFrag_same hmax h m now

theorem acceptDatagram_same {s t : State} (hmax : 1 ≤ s.params.groupMax) (h : s.Same t) (now : U32)
    (arrival : Addr × Bytes) : (acceptDatagram now s arrival).Same (acceptDatagram now t arrival) := by
  have hlogged := (ignoresTables_logCall (.rxPoll (.datagram arrival.1 arrival.2))).same h
  unfold acceptDatagram
  split
  · exact hlogged
  · exact routeFrame_same (s := s.logCall _) hmax hlogged _ now

theorem acceptDatagram_params (now : U32) (s : State) (arrival : Addr × Bytes) :
    (acceptDatagram now s arrival).params = s.params := by
  unfold acceptDatagram
  split
  · rfl
  · rw [routeFrame_eq]
    rfl

theorem foldl_acceptDatagram_same (now : U32) (arrivals : List (Addr × Bytes)) {s t : State}
    (hmax : 1 ≤ s.params.groupMax) (h : s.Same t) :
    (arrivals.foldl (acceptDatagram now) s).Same (arrivals.foldl (acceptDatagram now) t) := by
  induction arrivals generalizing s t with
  | nil => exact h
  | cons arrival arrivals ih =>
    exact ih (by rwa [acceptDatagram_params]) (acceptDatagram_same hmax h now arrival)

theorem endOfCycle_same {s t : State} (h : s.Same t) (now : U32) : (endOfCycle now s).Same (endOfCycle now t) := by
  have hevicted := evictStale_same (foldl_applyPacket_same s.sl h) now
  rw [endOfCycle, endOfCycle, ← h.sl_eq]
  exact ignoresTables_clearStaged.same hevicted

theorem State.Same.scalars {s t : State} (h : s.Same t) :
    t.cfg = s.cfg ∧ t.status = s.status ∧ t.ob = s.ob ∧ t.iq = s.iq ∧ t.env = s.env ∧ t.host = s.host := by
  obtain ⟨-, -, -, -, heq⟩ := h
  rw [heq]
  exact ⟨rfl, rfl, rfl, rfl, rfl, rfl⟩

theorem receiveCycle_same {s t : State} (hmax : 1 ≤ s.params.groupMax) (h : s.Same t) (arrivals : List (Addr × Bytes))
    (fin : RxEnd) : SameOutcome (receiveCycle arrivals fin s) (receiveCycle arrivals fin t) := by
  obtain ⟨-, -, -, -, henv, -⟩ := h.scalars
  have hnow : t.env.now = s.env.now := congrArg PortAnswers.now henv
  have hdrain := foldl_acceptDatagram_same s.env.now arrivals (s := { s with sl := [] }) hmax
    (ignoresTables_clearStaged.same h)
  unfold receiveCycle drain
  rw [hnow]
  cases fin with
  | wouldBlock =>
    exact (ignoresTables_reply _).same (endOfCycle_same ((ignoresTables_logCall _).same hdrain) s.env.now)
  | error =>
    exact IgnoresTables.same
      (f := fun s => { (s.logCall (.rxPoll .error)).setNeedsReset with sl := [] }.reply .receiveFailure)
      (fun _ _ _ _ _ => rfl) hdrain
  | endless => exact rfl

/-! ### The instructions -/

theorem subscriberAddrs_same {s t : State} (h : s.Same t) : subscriberAddrs t = subscriberAddrs s :=
  (validAddrs_same h.2.1).symm

theorem controlFrame_same {s t : State} (h : s.Same t) (r : Req) : controlFrame r t = controlFrame r s := by
  obtain ⟨hcfg, -⟩ := h.scalars
  rw [controlFrame, controlFrame, hcfg]

theorem resetShutdown_same {s t : State} (h : s.Same t) : (resetShutdown s).Same (resetShutdown t) := by
  have hignores (frame : Bytes) (dests : List Addr) :
      IgnoresTables fun s => (driverClose (sendIgnoring frame dests s)).2.clearInit := by
    intro s rs sub pub pend
    simp only [sendIgnoring_spec]
    rfl
  rw [resetShutdown, resetShutdown, subscriberAddrs_same h, controlFrame_same h]
  exact (hignores _ _).same h

theorem txBatch_same {s t : State} (h : s.Same t) (frames : List Bytes) (dests : List Addr) :
    (txBatch frames dests t).1 = (txBatch frames dests s).1 ∧
      (txBatch frames dests s).2.Same (txBatch frames dests t).2 := by
  refine ⟨?_, IgnoresTables.same (f := fun s => (txBatch frames dests s).2) (fun s rs sub pub pend => ?_) h⟩
  · obtain ⟨rs, sub, pub, pend, -, -, -, -, rfl⟩ := same_iff.1 h
    rw [txBatch, sendUntilFailure_withTables, txBatch]
  · simp only [txBatch, sendUntilFailure_withTables]

theorem notePending_same {s t : State} (h : s.Same t) (r : Req) (a : Addr) (code : ResultCode) :
    (notePending r a code s).Same (notePending r a code t) := by
  obtain ⟨rs, sub, pub, pend, hrs, hsub, hpub, hpend, rfl⟩ := same_iff.1 h
  unfold notePending
  split
  · exact ⟨hrs, hsub, hpub, pendInsert_same hpend a, rfl⟩
  · exact h

theorem lookups_same {s t : State} (h : s.Same t) (a : Addr) :
    [lookupFlags t a, lookupType t.sub a, lookupType t.pub a] =
      [lookupFlags s a, lookupType s.sub a, lookupType s.pub a] := by
  obtain ⟨-, hsub, hpub, hpend, -⟩ := h
  rw [lookupFlags, lookupFlags, findEntry_same hsub, findEntry_same hpub, findPend_same hpend, lookupType_same hsub,
    lookupType_same hpub]

/-- Every instruction respects `Same`. -/
theorem exec_same {s t : State} (hmax : 1 ≤ s.params.groupMax) (h : s.Same t) (i : Instr) :
    SameOutcome (exec i s) (exec i t) := by
  obtain ⟨-, hstatus, hob, hiq, henv, -⟩ := h.scalars
  have hinit : t.status.init = s.status.init := congrArg Status.init hstatus
  have hreply (code : ResultCode) : SameOutcome (.next (s.reply code)) (.next (t.reply code)) :=
    (ignoresTables_reply code).same h
  have hresults {x y : Bytes} (hxy : y = x) : SameOutcome (.next (s.replyWith x)) (.next (t.replyWith y)) :=
    hxy ▸ (ignoresTables_replyWith x).same h
  have hreceive (arrivals : List (Addr × Bytes)) (fin : RxEnd) :
      SameOutcome (receive arrivals fin s) (receive arrivals fin t) := by
    unfold receive
    rw [hinit]
    split
    · exact receiveCycle_same hmax h arrivals fin
    · exact hreply _
  cases i with
  | init v p ty =>
    show SameOutcome (execInit v p ty s) (execInit v p ty t)
    unfold execInit
    rw [hinit]
    split
    · exact hreply _
    · split
      · exact hreply _
      · exact (ignoresTables_openAndConfigure _ _ _).same h
  | reset v p ty =>
    have hclear : IgnoresTables State.clearNeedsReset := fun _ _ _ _ _ => rfl
    show SameOutcome (execReset v p ty s) (execReset v p ty t)
    unfold execReset
    rw [hinit]
    split
    · exact hreply _
    · split
      · exact (ignoresTables_openAndConfigure _ _ _).same (hclear.same (resetShutdown_same h))
      · exact (ignoresTables_openAndConfigure _ _ _).same (hclear.same h)
  | shutdown =>
    show SameOutcome (execShutdown s) (execShutdown t)
    unfold execShutdown
    rw [hinit, subscriberAddrs_same h, controlFrame_same h]
    split
    · exact (ignoresTables_sendToAll _ _).same h
    · exact hreply _
  | recv =>
    show SameOutcome (receive s.env.arrivals s.env.rxEnd s) (receive t.env.arrivals t.env.rxEnd t)
    rw [henv]
    exact hreceive _ _
  | getPackets =>
    have hempty : IgnoresTables fun s => { s with iq := [] } := fun _ _ _ _ _ => rfl
    show SameOutcome (execGetPackets s) (execGetPackets t)
    unfold execGetPackets
    rw [hiq]
    split
    · exact hreply _
    · exact (ignoresTables_replyWith _).same (hempty.same h)
  | push data =>
    have hcap : t.params.obCap = s.params.obCap := congrArg Params.obCap h.params_eq.symm
    have happend : IgnoresTables fun u => { u with ob := s.ob ++ data } := fun _ _ _ _ _ => rfl
    show SameOutcome (execPush data s) (execPush data t)
    unfold execPush
    rw [hob, hcap]
    split
    · exact hreply _
    · exact (ignoresTables_reply _).same (happend.same h)
  | flush =>
    have hempty : IgnoresTables fun s => { s with ob := [] } := fun _ _ _ _ _ => rfl
    show SameOutcome (execFlush s) (execFlush t)
    unfold execFlush
    rw [hinit, hob, subscriberAddrs_same h]
    split
    · exact (ignoresTables_fragmentAndSend _ _).same (hempty.same h)
    · exact hreply _
  | send data =>
    rw [exec_send, exec_send, subscriberAddrs_same h]
    exact (ignoresTables_sendData _ _).same h
  | sendTo a data => exact (ignoresTables_sendData data [a]).same h
  | sendCtrl r a =>
    show SameOutcome (execSendCtrl r a s) (execSendCtrl r a t)
    unfold execSendCtrl
    rw [hinit]
    split
    · exact hreply _
    next R _ =>
      obtain ⟨hcode, hsent⟩ := txBatch_same h [controlFrame R s] [a]
      split
      · rw [controlFrame_same h]
        dsimp only
        rw [hcode]
        exact (ignoresTables_reply _).same (notePending_same hsent R a _)
      · exact hreply _
  | isInitialized => exact hresults (congrArg (fun x : Status => [flagByte x.init]) hstatus)
  | needsReset => exact hresults (congrArg (fun x : Status => [flagByte x.needsReset]) hstatus)
  | hasSubscribers => exact hresults (congrArg (fun x => [flagByte x]) (any_valid_same h.2.1).symm)
  | regLookup a => exact hresults (lookups_same h a)
  | hdrEncode ty r m l x f v =>
    show SameOutcome (execHdrEncode ty r m l x f v s) (execHdrEncode ty r m l x f v t)
    unfold execHdrEncode
    split
    · exact hresults rfl
    · exact hreply _
  | hdrDecode b => exact hresults rfl
  | pushFrame | connectFrame | ackFrame | disconnectFrame => exact hreceive _ _

/-! ### The obligation -/

theorem sameOutcome_next_refl (s : State) : SameOutcome (.next s) (.next s) :=
  same_iff.2 ⟨s.rs, s.sub, s.pub, s.pend, List.forall₂_same.2 fun g _ => sameCell_refl Slot.valid g,
    List.forall₂_same.2 fun e _ => sameCell_refl Entry.valid e,
    List.forall₂_same.2 fun e _ => sameCell_refl Entry.valid e,
    List.forall₂_same.2 fun e _ => sameCell_refl PendEntry.valid e, rfl⟩

/-- Settles O56: loading a command and refusing a message ignore the arrays, a reset writes them all, and every
instruction respects `Same`. -/
theorem invalidContentsAreNeverRead : Obligations.InvalidContentsAreNeverRead := by
  intro s t hlegal h
  obtain ⟨-, -, -, -, -, -, hmax, -⟩ := hlegal
  obtain ⟨-, -, -, -, -, hhost⟩ := h.scalars
  match hs : s.host with
  | [] =>
    rw [step_of_idle hs, step_of_idle (hhost.trans hs)]
    exact h
  | .powerOn :: rest =>
    have hreset : t.powerOnReset rest = s.powerOnReset rest := by
      obtain ⟨-, -, -, -, heq⟩ := h
      rw [heq]
      rfl
    rw [step_of_powerOn hs, step_of_powerOn (hhost.trans hs), hreset]
    exact sameOutcome_next_refl _
  | .command message answers :: rest =>
    have hload : (s.loadCommand answers rest).Same (t.loadCommand answers rest) :=
      IgnoresTables.same (f := (State.loadCommand · answers rest)) (fun _ _ _ _ _ => rfl) h
    cases hdec : decodeCommand message with
    | ok i =>
      rw [step_of_decodeCommand_ok hs hdec, step_of_decodeCommand_ok (hhost.trans hs) hdec]
      exact exec_same (s := s.loadCommand answers rest) hmax hload i
    | error e =>
      rw [step_of_decodeCommand_error hs hdec, step_of_decodeCommand_error (hhost.trans hs) hdec]
      exact (ignoresTables_reply (rejectCode e)).same hload

end Sys2Proof.Machine
end
